-- ==== Sys2Proof/Word.lean ====
section
/-!
DEFINITION. The values of the engine and their widths (spec 00_scope R2, R5, R6): every value is an unsigned
integer of a stated width, bit 0 the least significant.
-/

namespace Sys2Proof

/-- A byte, 8 bits (R6). -/
abbrev Byte := BitVec 8

/-- A word, `WORD_W` = 64 bits (R5, R6): a scratch word or a round key. -/
abbrev Word := BitVec 64

/-- A block, `BLOCK_BYTES` = 16 bytes, byte 0 first (R5, R50). -/
abbrev Block := Vector Byte 16

/-- The step counter's value, `STEP_W` = 6 bits (R5, R21). -/
abbrev StepCount := BitVec 6

/-- A command code, `cmd_op[1:0]` (R80). -/
abbrev OpCode := BitVec 2

/-- One command word `cw = (cmd_block, cmd_op)`, 130 bits, the code in the two low bits (R81). -/
abbrev CommandWord := BitVec 130

/-- A round-key index, `rk_index[4:0]` (R57, R65). -/
abbrev KeyIndex := BitVec 5

/-- The key schedule: exactly `KEY_WORDS` = 32 words (R5, R25). -/
abbrev KeySchedule := Vector Word 32

end Sys2Proof
end

