-- ==== Sys2Proof/Config.lean ====
section
/-!
DEFINITION. What an implementation fixes (spec 00_scope R5) and the free values: the values the spec leaves
unspecified (93_implementation_defined U2, U11). A free value is a constant with no body, so that no proof can
rest on what it is; each is applied to the number of a draw (`State.draw`).
-/

namespace Sys2Proof

/-- The parameter `VARIANT` (R5, R84, decision D7): which poll commands an engine implements. -/
inductive Variant where
  /-- encryption only: `POLLD` is reserved -/
  | enc
  /-- decryption only: `POLLE` is reserved -/
  | dec
  /-- both polls -/
  | both
  deriving DecidableEq, Repr

namespace Config

/-- `ROUNDS` (R5). -/
abbrev rounds : Nat := 32

/-- `ALPHA`, the rotation of `x` (R5). -/
abbrev alpha : Nat := 8

/-- `BETA`, the rotation of `y` (R5). -/
abbrev beta : Nat := 3

/-- `STEP_NORM`, the step value of the normalization tick (R5). -/
abbrev stepNorm : Nat := 33

/-- `STEP_FIN`, the step value of the completion tick and the largest legal step (R5). -/
abbrev stepFin : Nat := 34

/-- `scratch[0]` after a reset cycle: unspecified (R33, R170; log 6). -/
opaque freeScratch0 : Nat → Word

/-- `scratch[1]` after a reset cycle: unspecified (R33, R170; log 6). -/
opaque freeScratch1 : Nat → Word

/-- `output` after a reset cycle: unspecified (R33, R170; log 6). -/
opaque freeOutput : Nat → Block

/-- The wires `rk_index` while `rk_re = 0`: unspecified (R65, U11; log 9). -/
opaque freeRkIndex : Nat → KeyIndex

/-- The wires `ev_block` while no event is asserted: unspecified (R88, U11; log 9). -/
opaque freeEvBlock : Nat → BitVec 128

end Config

end Sys2Proof
end

