-- ==== Sys2Proof/Syntax.lean ====
section
/-!
DEFINITION. The micro-operations of the engine, one constructor per row of spec/opcode_table.json (30_encoding
R83; `POLL.ILL` is two rows there, one per command code). `START` carries its block operand (R80, format CB);
every other command has none (format C0).
-/

namespace Sys2Proof

/-- One micro-operation: what a command selects at the current `step` (R83). -/
inductive Instr where
  /-- `NOP`: no command (R110) -/
  | nop
  /-- `START.ACC`: a block is accepted (R100) -/
  | startAcc (blk : Block)
  /-- `START.REJ`: a block is rejected, the engine being busy (R101) -/
  | startRej (blk : Block)
  /-- `POLLE.IDLE`: an encryption poll of an idle engine (R111) -/
  | polleIdle
  /-- `POLLD.IDLE`: a decryption poll of an idle engine (R111) -/
  | polldIdle
  /-- `ENC.ROUND`: one encryption round (R112, R131) -/
  | encRound
  /-- `DEC.ROUND`: one decryption round (R112, R141) -/
  | decRound
  /-- `POLLE.NORM`: the normalization tick (R113) -/
  | polleNorm
  /-- `POLLD.NORM`: the normalization tick (R113) -/
  | polldNorm
  /-- `POLLE.FIN`: the completion tick (R114) -/
  | polleFin
  /-- `POLLD.FIN`: the completion tick (R114) -/
  | polldFin
  /-- `POLLE.ILL`: an encryption poll at a step outside 0..34 (R119) -/
  | polleIll
  /-- `POLLD.ILL`: a decryption poll at a step outside 0..34 (R119) -/
  | polldIll
  deriving DecidableEq, Repr

end Sys2Proof
end

