-- ==== Sys2Proof/WellFormed.lean ====
section
/-!
DEFINITION. When a micro-operation is one an engine can select: its row's range of `step`
(spec/opcode_table.json, key `condition`; 30_encoding R83) holds the current step, and its command code is not
reserved in the engine's variant (R84). The operand has no illegal value (R85), so nothing else is checked.
-/

namespace Sys2Proof

/-- The least and the greatest `step` at which the row is selected (R83). -/
def Instr.stepRange : Instr → Nat × Nat
  | .nop => (0, 63)
  | .startAcc _ => (0, 0)
  | .startRej _ => (1, 63)
  | .polleIdle => (0, 0)
  | .polldIdle => (0, 0)
  | .encRound => (1, 32)
  | .decRound => (1, 32)
  | .polleNorm => (33, 33)
  | .polldNorm => (33, 33)
  | .polleFin => (34, 34)
  | .polldFin => (34, 34)
  | .polleIll => (35, 63)
  | .polldIll => (35, 63)

/-- The command code of the row, `op` (R80, R83). -/
def Instr.op : Instr → OpCode
  | .nop => 0b00
  | .startAcc _ => 0b01
  | .startRej _ => 0b01
  | .polleIdle => 0b10
  | .polldIdle => 0b11
  | .encRound => 0b10
  | .decRound => 0b11
  | .polleNorm => 0b10
  | .polldNorm => 0b11
  | .polleFin => 0b10
  | .polldFin => 0b11
  | .polleIll => 0b10
  | .polldIll => 0b11

/-- The row is selected at this step (R83). -/
def Instr.selectedAt (i : Instr) (step : StepCount) : Bool :=
  decide (i.stepRange.1 ≤ step.toNat ∧ step.toNat ≤ i.stepRange.2)

/-- The command code is reserved in this variant (R84): `POLLD` in ENC, `POLLE` in DEC. -/
def Variant.reserves : Variant → OpCode → Bool
  | .enc, op => op == 0b11
  | .dec, op => op == 0b10
  | .both, _ => false

/-- The variant has the command `POLLE` (R84). -/
abbrev Variant.hasPollE (v : Variant) : Prop := v ≠ .dec

/-- The variant has the command `POLLD` (R84). -/
abbrev Variant.hasPollD (v : Variant) : Prop := v ≠ .enc

/-- The micro-operation is one that an engine of variant `v` selects at `step` (R83, R84). -/
def Instr.wellFormed (v : Variant) (step : StepCount) (i : Instr) : Bool :=
  i.selectedAt step && !v.reserves i.op

end Sys2Proof
end

