-- ==== Sys2Proof/Decode.lean ====
section
/-!
DEFINITION. From the command ports to a micro-operation and back (spec 30_encoding R80 to R86). The decoder is
total; a command code that the engine's variant reserves is rejected by name (R84).
-/

namespace Sys2Proof

/-- Why the decoder refuses a command (R84, U15). -/
inductive DecodeError where
  /-- `POLLE` presented to an engine of variant DEC -/
  | reservedPollE
  /-- `POLLD` presented to an engine of variant ENC -/
  | reservedPollD
  deriving DecidableEq, Repr

/-- Byte `i` of a 128-bit block port is bits `8*i+7 : 8*i` (R82). -/
def blockOfPort (p : BitVec 128) : Block :=
  Vector.ofFn fun i => p.extractLsb' (8 * i) 8

/-- The port on which a block is presented: byte 15 in the most significant place (R82). -/
def portOfBlock (b : Block) : BitVec 128 :=
  b[15] ++ b[14] ++ b[13] ++ b[12] ++ b[11] ++ b[10] ++ b[9] ++ b[8]
    ++ b[7] ++ b[6] ++ b[5] ++ b[4] ++ b[3] ++ b[2] ++ b[1] ++ b[0]

/-- The command word of the two command ports (R81). -/
def commandWord (op : OpCode) (block : BitVec 128) : CommandWord :=
  block ++ op

/-- `op = cw[1:0]` (R81). -/
def opOfWord (cw : CommandWord) : OpCode :=
  cw.extractLsb' 0 2

/-- `blk = cw[129:2]` (R81). -/
def portOfWord (cw : CommandWord) : BitVec 128 :=
  cw.extractLsb' 2 128

/-- The micro-operation that `START` selects (R83). -/
def selectStart (step : StepCount) (blk : Block) : Instr :=
  if step = 0 then .startAcc blk else .startRej blk

/-- The micro-operation that `POLLE` selects (R83). -/
def selectPollE (step : StepCount) : Instr :=
  if step = 0 then .polleIdle
  else if step ≤ 32 then .encRound
  else if step = 33 then .polleNorm
  else if step = 34 then .polleFin
  else .polleIll

/-- The micro-operation that `POLLD` selects (R83). -/
def selectPollD (step : StepCount) : Instr :=
  if step = 0 then .polldIdle
  else if step ≤ 32 then .decRound
  else if step = 33 then .polldNorm
  else if step = 34 then .polldFin
  else .polldIll

/-- The decoder of R83, for an engine of variant `v`: a command that is not presented (`valid` false, R81) is
`NOP` whatever the word holds; a reserved poll code is rejected at every step (R84; log 12). -/
def decode (v : Variant) (step : StepCount) (valid : Bool) (cw : CommandWord) : Except DecodeError Instr :=
  if valid = false ∨ opOfWord cw = 0b00 then .ok .nop
  else if opOfWord cw = 0b01 then .ok (selectStart step (blockOfPort (portOfWord cw)))
  else if opOfWord cw = 0b10 then
    (if v = .dec then .error .reservedPollE else .ok (selectPollE step))
  else
    (if v = .enc then .error .reservedPollD else .ok (selectPollD step))

/-- The block operand of a micro-operation on the port; the 128 bits that every other command ignores are
written as zeros (R81; log 14). -/
def Instr.port : Instr → BitVec 128
  | .startAcc blk => portOfBlock blk
  | .startRej blk => portOfBlock blk
  | .nop => 0
  | .polleIdle => 0
  | .polldIdle => 0
  | .encRound => 0
  | .decRound => 0
  | .polleNorm => 0
  | .polldNorm => 0
  | .polleFin => 0
  | .polldFin => 0
  | .polleIll => 0
  | .polldIll => 0

/-- The command word of a micro-operation (R80, R81). Rows that differ only in their range of `step` share
their words. -/
def encode (i : Instr) : CommandWord :=
  commandWord i.op i.port

/-- The command word whose low `nbits` bits are those of `w` and whose other bits are 0 (log 13). -/
def tableWord (nbits w : Nat) : CommandWord :=
  BitVec.ofNat 130 (w % 2 ^ nbits)

/-- What the decoder reads from a command presented to the engine as `State.reset` leaves it: idle (`step = 0`)
and of variant BOTH. The word alone does not tell apart the rows of one command; `step` does (R83; log 13). -/
def decodeTableWord (nbits w : Nat) : Option Instr :=
  (decode .both 0 true (tableWord nbits w)).toOption

end Sys2Proof
end

