-- ==== Sys2Proof/Machine/Operands.lean ====
section
/-!
DEFINITION. The pure functions of spec 00_scope (R7, R8, R10), the byte mapping between blocks and scratch
words (20_memory R52, R53) and the round-key indices (R57, R130, R140). There is no other operand form: no
immediate, no register operand, no addressing mode (R66, R82).
-/

namespace Sys2Proof.Machine

/-- `add64`: addition modulo 2^64; the carry is discarded (R7). -/
def add64 (a b : Word) : Word := a + b

/-- `sub64`: subtraction modulo 2^64; the borrow is discarded (R7). -/
def sub64 (a b : Word) : Word := a - b

/-- `rotr64(v, n)` for `0 < n < 64` (R8). -/
def rotr64 (v : Word) (n : Nat) : Word := (v >>> n) ||| (v <<< (64 - n))

/-- `rotl64(v, n)` for `0 < n < 64` (R8). -/
def rotl64 (v : Word) (n : Nat) : Word := (v <<< n) ||| (v >>> (64 - n))

/-- `le64` of eight bytes, byte 0 the least significant (R10). -/
def le64 (b0 b1 b2 b3 b4 b5 b6 b7 : Byte) : Word :=
  b7 ++ b6 ++ b5 ++ b4 ++ b3 ++ b2 ++ b1 ++ b0

/-- Element `i` of `bytes_le64(w)`: bits `8*i+7 : 8*i` (R10). -/
def byteOfWord (w : Word) (i : Nat) : Byte := w.extractLsb' (8 * i) 8

/-- `scratch[0]`, the word `y`, of an ingested block (R52). -/
def lowWordOfBlock (b : Block) : Word := le64 b[0] b[1] b[2] b[3] b[4] b[5] b[6] b[7]

/-- `scratch[1]`, the word `x`, of an ingested block (R52). -/
def highWordOfBlock (b : Block) : Word := le64 b[8] b[9] b[10] b[11] b[12] b[13] b[14] b[15]

/-- The output block of the scratch words: bytes 0..7 from `scratch[0]`, bytes 8..15 from `scratch[1]` (R53). -/
def blockOfWords (w0 w1 : Word) : Block :=
  #v[byteOfWord w0 0, byteOfWord w0 1, byteOfWord w0 2, byteOfWord w0 3,
     byteOfWord w0 4, byteOfWord w0 5, byteOfWord w0 6, byteOfWord w0 7,
     byteOfWord w1 0, byteOfWord w1 1, byteOfWord w1 2, byteOfWord w1 3,
     byteOfWord w1 4, byteOfWord w1 5, byteOfWord w1 6, byteOfWord w1 7]

/-- The round-key index of an encryption round: `(step - 1)[4:0]` (R57, R130). -/
def encKeyIndex (step : StepCount) : KeyIndex := (step - 1).extractLsb' 0 5

/-- The round-key index of a decryption round: `(32 - step)[4:0]` (R57, R140). -/
def decKeyIndex (step : StepCount) : KeyIndex := (32 - step).extractLsb' 0 5

end Sys2Proof.Machine
end

