-- ==== Sys2Proof/Machine/State.lean ====
section
/-!
DEFINITION. The state of one engine (spec 10_state R20 to R34), with the Configuration presented to it (R24 to
R26), what its ports carry (30_encoding R89), and its reset.
-/

namespace Sys2Proof.Machine

/-- The Cipher State (R20): all the mutable state of one engine. -/
structure CipherState where
  /-- `step`: 0 idle, 1..32 round pending, 33 normalization pending, 34 completion pending (R21) -/
  step : StepCount
  /-- `scratch[0]`, the word `y` (R22) -/
  scratch0 : Word
  /-- `scratch[1]`, the word `x` (R22) -/
  scratch1 : Word
  /-- `output[0..15]` (R23) -/
  output : Block
  deriving DecidableEq, Repr

/-- The Configuration (R24): the caller's, read and never written by the engine. -/
structure Configuration where
  /-- `key_schedule[0..31]` (R25) -/
  keySchedule : KeySchedule
  /-- `cb_en[2:0]`: which callbacks are present, bit 0 accepted, bit 1 rejected, bit 2 finished (R26) -/
  cbEn : BitVec 3
  deriving DecidableEq, Repr

/-- The response codes of a transition (R12, R87). -/
inductive Response where
  | none
  | accepted
  | rejected
  | finished
  deriving DecidableEq, Repr

/-- The three events, the hardware form of the callbacks (R12, R155). -/
inductive EventKind where
  | accepted
  | rejected
  | finished
  deriving DecidableEq, Repr

/-- One event: its kind, its 16 bytes, and the Cipher State that a handler inspecting the engine while the
callback runs would see (the order of effects of R100, R114, R160; log 10). -/
structure Event where
  kind : EventKind
  payload : Block
  seen : CipherState
  deriving DecidableEq, Repr

/-- What a transition drives on the output ports (R13, R65, R87, R88): the response, at most one event, and the
round-key index when a key is read (`rk_re = 1`). Nothing of it is latched: every transition drives it anew. -/
structure Outputs where
  rsp : Response
  event : Option Event
  rkIndex : Option KeyIndex
  deriving DecidableEq, Repr

/-- The outputs of a transition that reports nothing and reads no key (R87, R88, R65). -/
def Outputs.quiet : Outputs := { rsp := .none, event := none, rkIndex := none }

/-- What the input ports carry in one clock cycle (R81, R89). `cfg` is a change of the Configuration inputs: with
`some c` the caller presents `c` in this cycle and from then on, with `none` it presents what it presented
before (R13, R63; log 3). -/
structure Inputs where
  rst : Bool
  cmdValid : Bool
  cmdOp : OpCode
  cmdBlock : BitVec 128
  cfg : Option Configuration
  deriving DecidableEq, Repr

/-- A cycle in which nothing is presented (`rst = 0`, `cmd_valid = 0`; R81, R110). -/
def Inputs.quiet : Inputs := { rst := false, cmdValid := false, cmdOp := 0, cmdBlock := 0, cfg := none }

/-- One engine and what its ports carry. -/
structure State where
  /-- the Cipher State (R20) -/
  cipher : CipherState
  /-- the Configuration presented last (R24; log 3) -/
  cfg : Configuration
  /-- the parameter `VARIANT` of this engine (R5, R84; log 4) -/
  variant : Variant
  /-- what the transition taken last drove on the output ports (R13; log 8) -/
  outputs : Outputs
  /-- what the input ports carry in the coming cycles, the next first; when none is left, nothing is presented
  (R14; log 2) -/
  inputs : List Inputs
  /-- the model's own: the number of the next free draw (log 7) -/
  draw : Nat
  deriving DecidableEq, Repr

/-- Why the engine stops. -/
inductive Fault where
  /-- `IllegalStep` (R119, R154, U4): raised by `POLLE.ILL` and `POLLD.ILL`, a poll at a step in 35..63, with the
  value of `step`. Safe: the machine stops where the spec defines no next state; unreachable from reset (R29). -/
  | illegalStep (step : StepCount)
  deriving DecidableEq, Repr

/-- Why the model gives a transition no meaning. -/
inductive Refusal where
  /-- An instruction without a meaning yet, raised by its arm of exec alone. Safe. -/
  | notModelled (mnemonic : String)
  /-- A micro-operation run at a step outside its row's range, where the rule's `require` does not hold (R83;
  log 11): raised by every meaning but NOP's, and by no step. Safe. -/
  | notSelected (mnemonic : String)
  /-- `POLLE` presented to an engine of variant DEC (R84, U15): raised by `step`. Safe: the spec gives a reserved
  command no meaning. -/
  | reservedPollE
  /-- `POLLD` presented to an engine of variant ENC (R84, U15): raised by `step`. Safe: the spec gives a reserved
  command no meaning. -/
  | reservedPollD
  deriving DecidableEq, Repr

/-- The engine right after reset (R33, R180): idle, `rsp = NONE`, no event, no key read. The spec leaves the
scratch words and the output buffer unspecified and does not reset the Configuration; the zeros here, the
variant BOTH and the empty input list are the model's (log 2, 3, 4, 5). -/
def State.reset : State where
  cipher := { step := 0, scratch0 := 0, scratch1 := 0, output := Vector.replicate 16 0 }
  cfg := { keySchedule := Vector.replicate 32 0, cbEn := 0 }
  variant := .both
  outputs := Outputs.quiet
  inputs := []
  draw := 0

end Sys2Proof.Machine
end

