-- ==== Sys2Proof/Machine/Ops.lean ====
section
/-!
DEFINITION. The named operations over the engine's state: the only accesses a rule makes (spec 00_scope R11,
R12), raising the model's one fault, delivering an event, sampling the input ports, and reset.
-/

namespace Sys2Proof.Machine

/-- What every operation here and every meaning answers. -/
abbrev Result := Host.Outcome State Fault Refusal

/-- `step <- v` (R11, R21). -/
def State.setStep (v : StepCount) (s : State) : State :=
  { s with cipher := { s.cipher with step := v } }

/-- `scratch[0] <- w0`, `scratch[1] <- w1` (R11, R22). -/
def State.setScratch (w0 w1 : Word) (s : State) : State :=
  { s with cipher := { s.cipher with scratch0 := w0, scratch1 := w1 } }

/-- `output[0..15] <- b` (R11, R23): always all 16 bytes (R56). -/
def State.setOutput (b : Block) (s : State) : State :=
  { s with cipher := { s.cipher with output := b } }

/-- `KeyRead(cfg, i)` (R11, R25, R65): the round key of the Configuration presented now (R63). -/
def State.keyRead (i : KeyIndex) (s : State) : Word :=
  s.cfg.keySchedule[i.toNat]'i.isLt

/-- `rk_re = 1` and `rk_index = i` in this transition (R65). -/
def State.driveKeyIndex (i : KeyIndex) (s : State) : State :=
  { s with outputs := { s.outputs with rkIndex := some i } }

/-- The start of every transition: no response, no event and no key read yet; none is latched (R87, R88, R65). -/
def State.quiet (s : State) : State :=
  { s with outputs := Outputs.quiet }

/-- `rsp <- r` (R12, R87). -/
def State.respond (r : Response) (s : State) : State :=
  { s with outputs := { s.outputs with rsp := r } }

/-- The bit of `cb_en` that says the event's callback is present (R26). -/
def EventKind.enableBit : EventKind → Nat
  | .accepted => 0
  | .rejected => 1
  | .finished => 2

/-- The event's callback is present in the Configuration (R26, R155). -/
def Configuration.enables (c : Configuration) (k : EventKind) : Bool :=
  c.cbEn.getLsbD k.enableBit

/-- The event output after an event of this kind is fired: the event if its callback is present, else what was
there (R12, R26). -/
def Configuration.gate (c : Configuration) (k : EventKind) (fired : Event) (before : Option Event) : Option Event :=
  match c.enables k with
  | true => some fired
  | false => before

/-- `emit k(payload)` (R12, R155, R157): delivered only if the callback is present, and nothing else changes. The
event shows the Cipher State as it stands when it fires (R160). -/
def State.emit (k : EventKind) (payload : Block) (s : State) : State :=
  { s with
    outputs :=
      { s.outputs with
        event :=
          s.cfg.gate k { kind := k, payload := payload, seen := s.cipher } s.outputs.event } }

/-- `raise IllegalStep(step)` (R119): the model's one fault; no next state. -/
def raiseIllegalStep (s : State) : Result :=
  .fault (.illegalStep s.cipher.step)

/-- The `require` line of a micro-operation's rule: it is defined only at steps `lo` to `hi`; at another step the
model gives it no meaning and says so by name (R83; log 11). -/
def requireStep (lo hi : Nat) (mnemonic : String) (s : State) (result : Result) : Result :=
  if lo ≤ s.cipher.step.toNat ∧ s.cipher.step.toNat ≤ hi then result
  else .refused (.notSelected mnemonic)

/-- What the input ports carry in the next cycle (R89); nothing is presented when the caller presents nothing
(R110; log 2). -/
def State.presented (s : State) : Inputs :=
  match s.inputs with
  | [] => Inputs.quiet
  | c :: _ => c

/-- Sampling the input ports (R196): the cycle's inputs are taken off the list, the Configuration presented with
them is the one this transition reads (R13, R63), and a fresh number is drawn (log 7). -/
def State.sample (s : State) : State :=
  { s with
    cfg := s.presented.cfg.getD s.cfg
    inputs := s.inputs.tail
    draw := s.draw + 1 }

/-- The transition of a cycle with `rst = 1` (R180, R33, R170): `step <- 0`; scratch words and output buffer are
unspecified again, so they take free values (log 6); `rsp = NONE`, no event, no key read; the Configuration is
not touched (R181). -/
def State.applyReset (s : State) : State :=
  { s with
    cipher :=
      { step := 0
        scratch0 := Config.freeScratch0 s.draw
        scratch1 := Config.freeScratch1 s.draw
        output := Config.freeOutput s.draw }
    outputs := Outputs.quiet }

/-- Presenting these inputs in the next cycle, before all others (log 2). -/
def State.present (c : Inputs) (s : State) : State :=
  { s with inputs := c :: s.inputs }

/-- A cycle in which this command word is presented (R81). -/
def inputsOfWord (cw : CommandWord) : Inputs :=
  { rst := false, cmdValid := true, cmdOp := opOfWord cw, cmdBlock := portOfWord cw, cfg := none }

/-- A command that the decoder refuses has no meaning: the model refuses it by the same name (R84). -/
def refuseReserved : DecodeError → Result
  | .reservedPollE => .refused .reservedPollE
  | .reservedPollD => .refused .reservedPollD

/-- Decoding the command presented in the cycle `c` (R81, R83, R84). -/
def State.decodeCommand (c : Inputs) (s : State) : Except DecodeError Instr :=
  decode s.variant s.cipher.step c.cmdValid (commandWord c.cmdOp c.cmdBlock)

end Sys2Proof.Machine
end

