-- ==== Sys2Proof/Machine/Poll.lean ====
section
/-!
DEFINITION. The meanings of `NOP` and of the polls at the steps where the two variants do the same (spec
41_poll_control): idle, normalization, completion, illegal step.
-/

namespace Sys2Proof.Machine

/-- The idle tick (R111): nothing changes, `rsp <- NONE`. -/
def idleTick (s : State) : State := s.quiet

/-- The normalization tick (R113): the scratch words are serialised into `output`, `step <- 34`. -/
def normTick (s : State) : State :=
  (s.quiet.setOutput (blockOfWords s.cipher.scratch0 s.cipher.scratch1)).setStep 34

/-- The completion tick (R114): `on_finished` fires first, with the output buffer; `step <- 0` is written last;
`rsp <- FINISHED`. -/
def finTick (s : State) : State :=
  ((s.quiet.emit .finished s.cipher.output).setStep 0).respond .finished

/-- `NOP` (R110): no command, at any step; nothing is written, `rsp <- NONE`. -/
def execNop (s : State) : Result := .next s.quiet

/-- `POLLE.IDLE` (R111). -/
def execPolleIdle (s : State) : Result := requireStep 0 0 "POLLE.IDLE" s (.next (idleTick s))

/-- `POLLD.IDLE` (R111). -/
def execPolldIdle (s : State) : Result := requireStep 0 0 "POLLD.IDLE" s (.next (idleTick s))

/-- `POLLE.NORM` (R113). -/
def execPolleNorm (s : State) : Result := requireStep 33 33 "POLLE.NORM" s (.next (normTick s))

/-- `POLLD.NORM` (R113). -/
def execPolldNorm (s : State) : Result := requireStep 33 33 "POLLD.NORM" s (.next (normTick s))

/-- `POLLE.FIN` (R114). -/
def execPolleFin (s : State) : Result := requireStep 34 34 "POLLE.FIN" s (.next (finTick s))

/-- `POLLD.FIN` (R114). -/
def execPolldFin (s : State) : Result := requireStep 34 34 "POLLD.FIN" s (.next (finTick s))

/-- `POLLE.ILL` (R119): `raise IllegalStep(step)`, no next state. -/
def execPolleIll (s : State) : Result := requireStep 35 63 "POLLE.ILL" s (raiseIllegalStep s)

/-- `POLLD.ILL` (R119): `raise IllegalStep(step)`, no next state. -/
def execPolldIll (s : State) : Result := requireStep 35 63 "POLLD.ILL" s (raiseIllegalStep s)

end Sys2Proof.Machine
end

