-- ==== Sys2Proof/Machine/Round.lean ====
section
/-!
DEFINITION. The meanings of the round ticks (spec 41_poll_control R112, 42_round_encrypt, 43_round_decrypt). A
pair of words is written `(x, y)`, as the rules write it.
-/

namespace Sys2Proof.Machine

/-- `EncRound` with the round key `k` (R131): `x1 = rotr64(x, 8)`, `x2 = add64(x1, y)`, `x3 = x2 xor k`;
`y1 = rotl64(y, 3)`, `y2 = y1 xor x3`. -/
def encRoundWords (k x y : Word) : Word × Word :=
  let x1 := rotr64 x Config.alpha
  let x2 := add64 x1 y
  let x3 := x2 ^^^ k
  let y1 := rotl64 y Config.beta
  let y2 := y1 ^^^ x3
  (x3, y2)

/-- `DecRound` with the round key `k` (R141): `y1 = y xor x`, `y2 = rotr64(y1, 3)`; `x1 = x xor k`,
`x2 = sub64(x1, y2)`, `x3 = rotl64(x2, 8)`. -/
def decRoundWords (k x y : Word) : Word × Word :=
  let y1 := y ^^^ x
  let y2 := rotr64 y1 Config.beta
  let x1 := x ^^^ k
  let x2 := sub64 x1 y2
  let x3 := rotl64 x2 Config.alpha
  (x3, y2)

/-- The round tick (R112) that reads the key at `i` and whose transform gave the pair `p`: both scratch words are
written, `step <- step + 1`, `rsp <- NONE`. -/
def roundTick (i : KeyIndex) (p : Word × Word) (s : State) : State :=
  ((s.quiet.driveKeyIndex i).setScratch p.2 p.1).setStep (s.cipher.step + 1)

/-- `ENC.ROUND` (R112, R130, R131). -/
def execEncRound (s : State) : Result :=
  requireStep 1 32 "ENC.ROUND" s
    (.next (roundTick (encKeyIndex s.cipher.step)
      (encRoundWords (s.keyRead (encKeyIndex s.cipher.step)) s.cipher.scratch1 s.cipher.scratch0) s))

/-- `DEC.ROUND` (R112, R140, R141). -/
def execDecRound (s : State) : Result :=
  requireStep 1 32 "DEC.ROUND" s
    (.next (roundTick (decKeyIndex s.cipher.step)
      (decRoundWords (s.keyRead (decKeyIndex s.cipher.step)) s.cipher.scratch1 s.cipher.scratch0) s))

end Sys2Proof.Machine
end

