-- ==== Sys2Proof/Machine/Start.lean ====
section
/-!
DEFINITION. The meanings of the command `START` (spec 40_start).
-/

namespace Sys2Proof.Machine

/-- `START.ACC` (R100): the block is ingested, `step <- 1`, `rsp <- ACCEPTED`, and `on_accepted` fires last. -/
def execStartAcc (blk : Block) (s : State) : Result :=
  requireStep 0 0 "START.ACC" s
    (.next ((((s.quiet.setScratch (lowWordOfBlock blk) (highWordOfBlock blk)).setStep 1).respond .accepted).emit
      .accepted blk))

/-- `START.REJ` (R101): nothing is written, `rsp <- REJECTED`, and `on_rejected` hands the block back. -/
def execStartRej (blk : Block) (s : State) : Result :=
  requireStep 1 63 "START.REJ" s (.next ((s.quiet.respond .rejected).emit .rejected blk))

end Sys2Proof.Machine
end

