-- ==== Sys2Proof/Machine/Dispatch.lean ====
section
/-! DEFINITION. What one micro-operation does: one arm per constructor of Instr (spec 30_encoding R83). -/

namespace Sys2Proof.Machine

/-- The meaning of one micro-operation (R83). -/
def exec (i : Instr) (s : State) : Host.Outcome State Fault Refusal :=
  match i with
  | .nop => Sys2Proof.Machine.execNop s
  | .startAcc blk => Sys2Proof.Machine.execStartAcc blk s
  | .startRej blk => Sys2Proof.Machine.execStartRej blk s
  | .polleIdle => Sys2Proof.Machine.execPolleIdle s
  | .polldIdle => Sys2Proof.Machine.execPolldIdle s
  | .encRound => Sys2Proof.Machine.execEncRound s
  | .decRound => Sys2Proof.Machine.execDecRound s
  | .polleNorm => Sys2Proof.Machine.execPolleNorm s
  | .polldNorm => Sys2Proof.Machine.execPolldNorm s
  | .polleFin => Sys2Proof.Machine.execPolleFin s
  | .polldFin => Sys2Proof.Machine.execPolldFin s
  | .polleIll => Sys2Proof.Machine.execPolleIll s
  | .polldIll => Sys2Proof.Machine.execPolldIll s

end Sys2Proof.Machine
end

