-- ==== Sys2Proof/Machine/Flags.lean ====
section
/-!
DEFINITION. The engine has no flags (spec 10_state R27). What stands in their place: the derived status `busy`
(R28) and the output ports as views of the state (30_encoding R87 to R89, 60_exceptions R169).
-/

namespace Sys2Proof.Machine

/-- `rsp_code[1:0]` of a response (R87). -/
def Response.code : Response → BitVec 2
  | .none => 0b00
  | .accepted => 0b01
  | .rejected => 0b10
  | .finished => 0b11

/-- `busy = (step != 0)` (R28). -/
def State.busy (s : State) : Bool := s.cipher.step != 0

/-- The port `rsp_code` in the cycle of the last transition (R87, R89). -/
def State.rspCode (s : State) : BitVec 2 := s.outputs.rsp.code

/-- The last transition fired an event of this kind. -/
def Outputs.fired (o : Outputs) (k : EventKind) : Bool :=
  match o.event with
  | none => false
  | some e => e.kind == k

/-- The port `ev_accepted` (R88, R89). -/
def State.evAccepted (s : State) : Bool := s.outputs.fired .accepted

/-- The port `ev_rejected` (R88, R89). -/
def State.evRejected (s : State) : Bool := s.outputs.fired .rejected

/-- The port `ev_finished` (R88, R89). -/
def State.evFinished (s : State) : Bool := s.outputs.fired .finished

/-- The port `ev_block`: the payload of the event, a free value when no event is asserted (R88, U11; log 9). -/
def State.evBlock (s : State) : BitVec 128 :=
  match s.outputs.event with
  | none => Config.freeEvBlock s.draw
  | some e => portOfBlock e.payload

/-- The port `rk_re` (R65, R89). -/
def State.rkRe (s : State) : Bool := s.outputs.rkIndex.isSome

/-- The port `rk_index`: the index read, a free value when no key is read (R65, U11; log 9). -/
def State.rkIndexPort (s : State) : KeyIndex :=
  match s.outputs.rkIndex with
  | none => Config.freeRkIndex s.draw
  | some i => i

/-- The port `out_block` (R82, R89). -/
def State.outBlock (s : State) : BitVec 128 := portOfBlock s.cipher.output

/-- The optional port `dbg_scratch`: `scratch[1]` above `scratch[0]` (R89, R169). -/
def State.dbgScratch (s : State) : BitVec 128 := s.cipher.scratch1 ++ s.cipher.scratch0

end Sys2Proof.Machine
end

