-- ==== Sys2Proof/Machine/Step.lean ====
section
/-!
DEFINITION. One clock cycle of the engine (spec 70_reset_and_hazards R180, R196): the input ports are sampled;
`rst` has priority over any command; otherwise the micro-operation that the command selects at the current
`step` is performed.
-/

namespace Sys2Proof.Machine

/-- One transition (R13, R196). -/
def step (s : State) : Host.Outcome State Fault Refusal :=
  if s.presented.rst then .next s.sample.applyReset
  else
    match s.sample.decodeCommand s.presented with
    | .ok i => exec i s.sample
    | .error e => refuseReserved e

/-- `s` with the command word of these bits presented in the next cycle, before everything else the caller
presents (log 2, log 13). -/
def State.withFetchWord (s : State) (nbits w : Nat) : State :=
  s.present (inputsOfWord (tableWord nbits w))

end Sys2Proof.Machine
end

