-- ==== Sys2Proof/Safety.lean ====
section
/-!
DEFINITION. The terms claims use: the step invariant (spec 10_state R29), runs of several transitions and what
they drive on the ports, the caller's commands and the sequences ENCRYPT and DECRYPT (30_encoding R90), and the
whole cipher as the composition of its rounds (41_poll_control R120).
-/

namespace Sys2Proof.Machine

/-- The step invariant: `0 ≤ step ≤ 34` (R21, R29). -/
abbrev State.stepLegal (s : State) : Prop := s.cipher.step.toNat ≤ Config.stepFin

/-- `n` transitions, stopping at the first fault or refusal. -/
def runs : Nat → State → Result
  | 0, s => .next s
  | n + 1, s =>
    match step s with
    | .next t => runs n t
    | .fault f => .fault f
    | .refused r => .refused r

/-- What each of the next `n` transitions drives on the output ports, the first transition first. -/
def trace : Nat → State → List Outputs
  | 0, _ => []
  | n + 1, s =>
    match step s with
    | .next t => t.outputs :: trace n t
    | .fault _ => []
    | .refused _ => []

/-- The events of a list of outputs, as kind and payload, in order. -/
def eventsOf (os : List Outputs) : List (EventKind × Block) :=
  os.filterMap fun o => o.event.map fun e => (e.kind, e.payload)

/-- The event that a callback gives if the Configuration has it (R26), else none. -/
def Configuration.eventIf (c : Configuration) (k : EventKind) (payload : Block) : List (EventKind × Block) :=
  if c.enables k then [(k, payload)] else []

/-- A cycle that presents `START blk` (R80, R82). -/
def Inputs.start (blk : Block) : Inputs :=
  { rst := false, cmdValid := true, cmdOp := 0b01, cmdBlock := portOfBlock blk, cfg := none }

/-- A cycle that presents `POLLE` (R80). -/
def Inputs.pollE : Inputs := { rst := false, cmdValid := true, cmdOp := 0b10, cmdBlock := 0, cfg := none }

/-- A cycle that presents `POLLD` (R80). -/
def Inputs.pollD : Inputs := { rst := false, cmdValid := true, cmdOp := 0b11, cmdBlock := 0, cfg := none }

/-- `ENCRYPT blk`: `START blk` and 34 times `POLLE` (R90). -/
def encryptCommands (blk : Block) : List Inputs := Inputs.start blk :: List.replicate 34 Inputs.pollE

/-- `DECRYPT blk`: `START blk` and 34 times `POLLD` (R90). -/
def decryptCommands (blk : Block) : List Inputs := Inputs.start blk :: List.replicate 34 Inputs.pollD

/-- The cycle presents a poll, of either kind, without reset; the block port is ignored (R80, R81). -/
abbrev Inputs.isPoll (c : Inputs) : Prop :=
  c.rst = false ∧ c.cmdValid = true ∧ (c.cmdOp = 0b10 ∨ c.cmdOp = 0b11)

/-- The cycle presents a poll that an engine of variant `v` has (R84); an engine with both polls has every poll. -/
abbrev Inputs.isPollOf (v : Variant) (c : Inputs) : Prop :=
  c.isPoll ∧ (c.cmdOp = 0b10 → v.hasPollE) ∧ (c.cmdOp = 0b11 → v.hasPollD)

/-- `E_cfg(x, y)`: 32 encryption rounds with the keys 0, ..., 31 in that order (R120). -/
def encryptWords (ks : KeySchedule) (p : Word × Word) : Word × Word :=
  ks.toList.foldl (fun p k => encRoundWords k p.1 p.2) p

/-- `D_cfg(x, y)`: 32 decryption rounds with the keys 31, ..., 0 in that order (R120). -/
def decryptWords (ks : KeySchedule) (p : Word × Word) : Word × Word :=
  ks.toList.reverse.foldl (fun p k => decRoundWords k p.1 p.2) p

/-- The block whose words, `x` of bytes 8..15 and `y` of bytes 0..7, are the cipher's words of `blk` (R120). -/
def cipherBlock (f : Word × Word → Word × Word) (blk : Block) : Block :=
  let p := f (highWordOfBlock blk, lowWordOfBlock blk)
  blockOfWords p.2 p.1

end Sys2Proof.Machine
end

