-- ==== Sys2Proof/Certificates/Slice0/Obligations.lean ====
section
/-!
DEFINITION. The statements for the provers, each from the numbered rules of the spec that its docstring names.
The parts of a next state that an equation `exec i s = .next …` does not write are unchanged: such a
statement gives the result and the frame at once.
-/

open Sys2Proof Sys2Proof.Machine

/-! ## Commands and dispatch -/

/-- R80, R81, R83: what `encode` writes for a micro-operation that the engine can select decodes to it. -/
def Obligations.DecodeOfEncode : Prop :=
  ∀ (v : Variant) (step : StepCount) (i : Instr),
    i.wellFormed v step = true → decode v step true (encode i) = .ok i

/-- R83, R84: whatever is presented, what the decoder answers is selected at this step and not reserved. -/
def Obligations.DecodedIsWellFormed : Prop :=
  ∀ (v : Variant) (step : StepCount) (valid : Bool) (cw : CommandWord) (i : Instr),
    decode v step valid cw = .ok i → i.wellFormed v step = true

/-- R80, R81: no bit of a command is dropped: the command code is kept, and a `START` word is kept whole. -/
def Obligations.EncodeOfDecoded : Prop :=
  ∀ (v : Variant) (step : StepCount) (cw : CommandWord) (i : Instr),
    decode v step true cw = .ok i →
      opOfWord (encode i) = opOfWord cw ∧ (opOfWord cw = 0b01 → encode i = cw)

/-- R83: the dispatch table, for an engine that has both polls. -/
def Obligations.DispatchTable : Prop :=
  ∀ (step : StepCount) (valid : Bool) (op : OpCode) (block : BitVec 128),
    let d := decode .both step valid (commandWord op block)
    (valid = false ∨ op = 0b00 → d = .ok .nop) ∧
    (valid = true → op = 0b01 →
      (step.toNat = 0 → d = .ok (.startAcc (blockOfPort block))) ∧
      (1 ≤ step.toNat → d = .ok (.startRej (blockOfPort block)))) ∧
    (valid = true → op = 0b10 →
      (step.toNat = 0 → d = .ok .polleIdle) ∧
      (1 ≤ step.toNat → step.toNat ≤ 32 → d = .ok .encRound) ∧
      (step.toNat = 33 → d = .ok .polleNorm) ∧
      (step.toNat = 34 → d = .ok .polleFin) ∧
      (35 ≤ step.toNat → d = .ok .polleIll)) ∧
    (valid = true → op = 0b11 →
      (step.toNat = 0 → d = .ok .polldIdle) ∧
      (1 ≤ step.toNat → step.toNat ≤ 32 → d = .ok .decRound) ∧
      (step.toNat = 33 → d = .ok .polldNorm) ∧
      (step.toNat = 34 → d = .ok .polldFin) ∧
      (35 ≤ step.toNat → d = .ok .polldIll))

/-- R84: the reserved poll code of a single-direction engine is refused, at every step and by its own name; with
both polls every command has a meaning; each single-direction engine differs from it in that code alone. That the
refusal comes before the test of the step is read from R84 (log 12). -/
def Obligations.ReservedCommandsRefused : Prop :=
  (∀ s : State, s.presented.rst = false → s.presented.cmdValid = true →
    (s.variant = .enc → s.presented.cmdOp = 0b11 → step s = .refused .reservedPollD) ∧
    (s.variant = .dec → s.presented.cmdOp = 0b10 → step s = .refused .reservedPollE)) ∧
  (∀ (step : StepCount) (valid : Bool) (cw : CommandWord), ∃ i, decode .both step valid cw = .ok i) ∧
  (∀ (step : StepCount) (valid : Bool) (cw : CommandWord),
    (opOfWord cw ≠ 0b11 ∨ valid = false → decode .enc step valid cw = decode .both step valid cw) ∧
    (opOfWord cw ≠ 0b10 ∨ valid = false → decode .dec step valid cw = decode .both step valid cw))

/-- R81, R82 and the words of 95_test_vectors section 2.1: a few command words written out there decode to the
micro-operations they stand for. -/
def Obligations.SpecWordsDecode : Prop :=
  decode .both 0 true 0x03c3834302c2824201c1814100c080401 =
      .ok (.startAcc #v[0, 1, 2, 3, 4, 5, 6, 7, 8, 9, 10, 11, 12, 13, 14, 15]) ∧
  decode .both 5 true 0x004000000000000000000000000000201 =
      .ok (.startRej #v[0x80, 0, 0, 0, 0, 0, 0, 0, 0, 0, 0, 0, 0, 0, 0, 0x01]) ∧
  decode .both 1 true 0x2 = .ok .encRound ∧
  decode .both 32 true 0x3 = .ok .decRound ∧
  decode .both 33 true 0x2 = .ok .polleNorm ∧
  decode .both 34 true 0x3 = .ok .polldFin ∧
  decode .both 17 true 0x0 = .ok .nop ∧
  decode .both 35 true 0x2 = .ok .polleIll

/-- R82: byte `i` of a block is bits `8*i+7 : 8*i` of the block port, of the output port and of the event port,
and the two mappings of the command port are inverse to each other. -/
def Obligations.PortBytes : Prop :=
  (∀ (p : BitVec 128) (i : Fin 16), (blockOfPort p)[i] = p.extractLsb' (8 * i.val) 8) ∧
  (∀ (s : State) (i : Fin 16), s.outBlock.extractLsb' (8 * i.val) 8 = s.cipher.output[i]) ∧
  (∀ (s : State) (e : Event) (i : Fin 16), s.outputs.event = some e →
    s.evBlock.extractLsb' (8 * i.val) 8 = e.payload[i]) ∧
  (∀ b : Block, blockOfPort (portOfBlock b) = b) ∧
  (∀ p : BitVec 128, portOfBlock (blockOfPort p) = p)

/-! ## One cycle -/

/-- R196, R83: when the command presented in a cycle without reset decodes to `i`, the step is `exec i` on the
state that has taken the cycle's inputs off the list, holds the Configuration presented with them, and has drawn
a number (the model's own counter, log 7). -/
def Obligations.StepRunsDecodedInstruction : Prop :=
  ∀ (s : State) (c : Inputs) (rest : List Inputs) (i : Instr),
    s.inputs = c :: rest → c.rst = false →
    decode s.variant s.cipher.step c.cmdValid (commandWord c.cmdOp c.cmdBlock) = .ok i →
      step s = exec i { s with inputs := rest, cfg := c.cfg.getD s.cfg, draw := s.draw + 1 }

/-- R14, R110: nothing happens of the engine's own accord: in a cycle in which the caller presents nothing, only
the outputs fall back to quiet (and the model's own counter advances). That an empty list presents nothing is the
model's choice (log 2). -/
def Obligations.NothingPresentedChangesNothing : Prop :=
  ∀ s : State, s.inputs = [] → step s = .next { s with outputs := Outputs.quiet, draw := s.draw + 1 }

/-- R180: a cycle with `rst = 1`, whatever command it presents and whatever the engine was doing, mid-block or not:
it has a next state with `step = 0`, the response is NONE, and there is no event and no key read. -/
def Obligations.ResetCycle : Prop :=
  ∀ s : State, s.presented.rst = true →
    ∃ t, step s = .next t ∧ t.cipher.step = 0 ∧ t.rspCode = 0b00 ∧ t.rkRe = false ∧
      t.evAccepted = false ∧ t.evRejected = false ∧ t.evFinished = false

/-- R33, R28: `State.reset` is idle. That its outputs are quiet is the model's deduction (log 8): R180 states it of
the ports in the cycle with `rst = 1`, and `State.reset` holds what such a cycle drives. -/
def Obligations.ResetState : Prop :=
  State.reset.cipher.step = 0 ∧ State.reset.busy = false ∧ State.reset.rspCode = 0b00 ∧
  State.reset.rkRe = false ∧ State.reset.outputs.event = none

/-- R83: the decoder selects by the current step, so no step ever meets a micro-operation outside its range, nor
one without a meaning (the refusal is the model's own, log 11). -/
def Obligations.StepSelectsInRange : Prop :=
  ∀ (s : State) (m : String), step s ≠ .refused (.notSelected m) ∧ step s ≠ .refused (.notModelled m)

/-- R119, R154: a step raises a fault exactly when a poll that the engine has is presented at a step in 35..63,
and the fault carries that step. That a reserved poll at 35..63 raises no fault is not of these two rules: R84
gives a reserved command no meaning, and that it is refused before the step is tested is read from R84 (log 12,
DEDUCED). -/
def Obligations.FaultsExactlyOnIllegalPoll : Prop :=
  ∀ (s : State) (f : Fault), step s = .fault f ↔
    (f = .illegalStep s.cipher.step ∧ 35 ≤ s.cipher.step.toNat ∧
      s.presented.rst = false ∧ s.presented.cmdValid = true ∧
      ((s.presented.cmdOp = 0b10 ∧ s.variant.hasPollE) ∨ (s.presented.cmdOp = 0b11 ∧ s.variant.hasPollD)))

/-- R150: at a step in 0..34 no command, block, key or callback setting makes a transition fail; with both polls
every cycle has a next state. -/
def Obligations.LegalStepNeverFails : Prop :=
  ∀ s : State, s.stepLegal →
    (∀ f, step s ≠ .fault f) ∧ (s.variant = .both → ∃ t, step s = .next t)

/-- R29: the step invariant is kept by every transition. -/
def Obligations.StepLegalKept : Prop :=
  ∀ s t : State, s.stepLegal → step s = .next t → t.stepLegal

/-- R29: the step invariant holds after reset. -/
def Obligations.ResetIsStepLegal : Prop :=
  State.reset.stepLegal

/-- R117, R115: the only edges of the step counter: 0 to 1 by an accepted `START`, `s` to `s + 1` for `s` in 1..33
by a poll, 34 to 0 by a poll, any to 0 by reset, otherwise none. -/
def Obligations.StepCounterEdges : Prop :=
  ∀ s t : State, step s = .next t →
    t.cipher.step.toNat =
      (if s.presented.rst = true then 0
       else if s.presented.cmdValid = false then s.cipher.step.toNat
       else if s.presented.cmdOp = 0b01 ∧ s.cipher.step.toNat = 0 then 1
       else if (s.presented.cmdOp = 0b10 ∨ s.presented.cmdOp = 0b11) ∧
          1 ≤ s.cipher.step.toNat ∧ s.cipher.step.toNat ≤ 33 then s.cipher.step.toNat + 1
       else if (s.presented.cmdOp = 0b10 ∨ s.presented.cmdOp = 0b11) ∧ s.cipher.step.toNat = 34 then 0
       else s.cipher.step.toNat)

/-- R88: the event outputs of every transition are the response gated by the presence bits of the Configuration
presented with it, and the event port carries the input block or the output buffer. -/
def Obligations.EventsFollowResponse : Prop :=
  ∀ s t : State, step s = .next t →
    t.evAccepted = (t.rspCode == 0b01 && t.cfg.cbEn.getLsbD 0) ∧
    t.evRejected = (t.rspCode == 0b10 && t.cfg.cbEn.getLsbD 1) ∧
    t.evFinished = (t.rspCode == 0b11 && t.cfg.cbEn.getLsbD 2) ∧
    (t.evAccepted = true ∨ t.evRejected = true → t.evBlock = s.presented.cmdBlock) ∧
    (t.evFinished = true → t.evBlock = s.outBlock ∧ t.outBlock = s.outBlock)

/-- R24, R63, R181: the engine never writes the Configuration: after a transition, a reset cycle too, it is what the
caller presented with it. What these rules do not say: that a Configuration presented in a reset cycle holds from
then on is deduced from R181 (log 19); that the variant is a field of the state which nothing changes is the
model's form of the parameter of R5 and R84 (log 4); that every cycle takes one record off the list of inputs is
the model's form of the ports (log 2). -/
def Obligations.ConfigurationIsTheCallers : Prop :=
  ∀ s t : State, step s = .next t →
    t.cfg = s.presented.cfg.getD s.cfg ∧ t.variant = s.variant ∧ t.inputs = s.inputs.tail

/-- R122, R23: without reset, only a poll at step 33 changes the output buffer: a cycle at any other step keeps it,
and so does a `NOP` or a `START` at step 33. That the stale result persists is no promise of the source (U10): R122
and R23 derive it from the rules that write nothing there, and it is the model's deduction (log 17). -/
def Obligations.OutputPersists : Prop :=
  ∀ s t : State, step s = .next t → s.presented.rst = false →
    (s.cipher.step.toNat ≠ 33 ∨ ¬ s.presented.isPoll) →
    t.cipher.output = s.cipher.output

/-- R116, R198, R101: a `NOP` cycle at any step, or a `START` while busy, leaves the block in flight where it is:
the Cipher State is unchanged and the next cycle's inputs are the next. -/
def Obligations.InterleavedCommandsKeepTheBlock : Prop :=
  ∀ s : State, s.presented.rst = false →
    (s.presented.cmdValid = false ∨ s.presented.cmdOp = 0b00 ∨
      (s.presented.cmdOp = 0b01 ∧ s.cipher.step ≠ 0)) →
    ∃ t, step s = .next t ∧ t.cipher = s.cipher ∧ t.inputs = s.inputs.tail

/-! ## Every micro-operation -/

/-- R20, R22, R23, R24: the column 'written by' of the state table: the scratch words are written by an accepted
`START` and the rounds alone, the output buffer by the normalization ticks alone, `step` by none of `NOP`, the idle
polls and a rejected `START`, and the Configuration by none. That none writes the variant, the list of inputs and
the model's own counter is of logs 4, 2 and 7. Of the output ports it says nothing. -/
def Obligations.WhoWritesWhat : Prop :=
  ∀ (i : Instr) (s t : State), exec i s = .next t →
    (t.cfg = s.cfg ∧ t.variant = s.variant ∧ t.inputs = s.inputs ∧ t.draw = s.draw) ∧
    (i ≠ .encRound → i ≠ .decRound → (∀ b, i ≠ .startAcc b) →
      t.cipher.scratch0 = s.cipher.scratch0 ∧ t.cipher.scratch1 = s.cipher.scratch1) ∧
    (i ≠ .polleNorm → i ≠ .polldNorm → t.cipher.output = s.cipher.output) ∧
    ((i = .nop ∨ i = .polleIdle ∨ i = .polldIdle ∨ ∃ b, i = .startRej b) → t.cipher = s.cipher)

/-- R87, R154: the response code of every micro-operation that has a next state; it does not depend on `cb_en`. -/
def Obligations.ResponseCodes : Prop :=
  ∀ (i : Instr) (s t : State), exec i s = .next t →
    ((∃ b, i = .startAcc b) ↔ t.rspCode = 0b01) ∧
    ((∃ b, i = .startRej b) ↔ t.rspCode = 0b10) ∧
    ((i = .polleFin ∨ i = .polldFin) ↔ t.rspCode = 0b11)

/-- R65, R57: a round key is read in a round and in no other transition, at index `step - 1` by an encryption
round and `32 - step` by a decryption round. -/
def Obligations.KeyStorePort : Prop :=
  ∀ (i : Instr) (s t : State), exec i s = .next t →
    (t.rkRe = true ↔ (i = .encRound ∨ i = .decRound)) ∧
    (i = .encRound → t.rkIndexPort.toNat = s.cipher.step.toNat - 1) ∧
    (i = .decRound → t.rkIndexPort.toNat = 32 - s.cipher.step.toNat)

/-- R160, R100, R101, R114: the order of effects around a callback: a handler that runs inside the callback sees the
state after an accepted `START` has written it, the unchanged busy state in a rejection, and the state before a
completion writes `step <- 0`; a `START` of the same engine from inside any of the three callbacks would be
rejected, and either poll, of an engine that has it, from inside `on_finished` would be a second completion. That
the event records what a handler sees, and that a nested command is read as the decoding at the recorded step, is
the model's (log 10). -/
def Obligations.HandlerSeesOrderOfEffects : Prop :=
  ∀ (i : Instr) (s t : State) (e : Event), exec i s = .next t → t.outputs.event = some e →
    (e.kind = .accepted → e.seen = t.cipher ∧ e.seen.step = 1) ∧
    (e.kind = .rejected → e.seen = s.cipher ∧ e.seen.step ≠ 0) ∧
    (e.kind = .finished → e.seen = s.cipher ∧ e.seen.step = 34 ∧
      ∀ (v : Variant) (p : BitVec 128),
        (v.hasPollE → decode v e.seen.step true (commandWord 0b10 p) = .ok .polleFin) ∧
        (v.hasPollD → decode v e.seen.step true (commandWord 0b11 p) = .ok .polldFin)) ∧
    (∀ (v : Variant) (b : Block),
      decode v e.seen.step true (commandWord 0b01 (portOfBlock b)) = .ok (.startRej b))

/-- R83 (log 11): the `require` of a rule: a micro-operation run at a step outside its row's range is refused by
name. That it is refused is the model's choice. -/
def Obligations.OutOfRangeIsRefused : Prop :=
  ∀ (i : Instr) (s : State), i.selectedAt s.cipher.step = false → ∃ m, exec i s = .refused (.notSelected m)

/-! ## NOP and START -/

/-- R110: `NOP`, at every step, changes nothing and answers NONE, without an event or a key read. -/
def Obligations.NopChangesNothing : Prop :=
  ∀ s : State, exec .nop s = .next { s with outputs := { rsp := .none, event := none, rkIndex := none } }

/-- R100, R52: an accepted `START`: the two scratch words are the block's bytes, little-endian, `step` is 1, the
response is ACCEPTED, and the accepted event carries the block if the callback is present. That the event also
records the Cipher State which a handler would see (`seen`; R160) is the model's choice (log 10). -/
def Obligations.StartAccepted : Prop :=
  ∀ (s : State) (blk : Block), s.cipher.step = 0 →
    exec (.startAcc blk) s = .next
      { s with
        cipher :=
          { step := 1
            scratch0 := le64 blk[0] blk[1] blk[2] blk[3] blk[4] blk[5] blk[6] blk[7]
            scratch1 := le64 blk[8] blk[9] blk[10] blk[11] blk[12] blk[13] blk[14] blk[15]
            output := s.cipher.output }
        outputs :=
          { rsp := .accepted
            rkIndex := none
            event :=
              if s.cfg.cbEn.getLsbD 0 = true then
                some
                  { kind := .accepted
                    payload := blk
                    seen :=
                      { step := 1
                        scratch0 := le64 blk[0] blk[1] blk[2] blk[3] blk[4] blk[5] blk[6] blk[7]
                        scratch1 := le64 blk[8] blk[9] blk[10] blk[11] blk[12] blk[13] blk[14] blk[15]
                        output := s.cipher.output } }
              else none } }

/-- R101: a rejected `START`: nothing of the Cipher State changes, the response is REJECTED, and the rejected
event hands the block back if the callback is present. That the event also records the Cipher State which a handler
would see (`seen`; R160) is the model's choice (log 10). -/
def Obligations.StartRejected : Prop :=
  ∀ (s : State) (blk : Block), s.cipher.step ≠ 0 →
    exec (.startRej blk) s = .next
      { s with
        outputs :=
          { rsp := .rejected
            rkIndex := none
            event :=
              if s.cfg.cbEn.getLsbD 1 = true then
                some { kind := .rejected, payload := blk, seen := s.cipher }
              else none } }

/-! ## The polls -/

/-- R111: a poll of an idle engine changes nothing and answers NONE. -/
def Obligations.IdlePollChangesNothing : Prop :=
  ∀ s : State, s.cipher.step = 0 →
    exec .polleIdle s = .next { s with outputs := { rsp := .none, event := none, rkIndex := none } } ∧
    exec .polldIdle s = .next { s with outputs := { rsp := .none, event := none, rkIndex := none } }

/-- R112, R131, R130: the encryption round at step `r + 1`, `r` in 0..31, with the round key `r`. -/
def Obligations.EncryptionRound : Prop :=
  ∀ (s : State) (r : Fin 32), s.cipher.step.toNat = r.val + 1 →
    let x := s.cipher.scratch1
    let y := s.cipher.scratch0
    let x' := add64 (rotr64 x 8) y ^^^ s.cfg.keySchedule[r]
    let y' := rotl64 y 3 ^^^ x'
    exec .encRound s = .next
      { s with
        cipher := { step := s.cipher.step + 1, scratch0 := y', scratch1 := x', output := s.cipher.output }
        outputs := { rsp := .none, event := none, rkIndex := some (BitVec.ofFin r) } }

/-- R112, R141, R140: the decryption round at step `32 - r`, `r` in 0..31, with the round key `r`. -/
def Obligations.DecryptionRound : Prop :=
  ∀ (s : State) (r : Fin 32), s.cipher.step.toNat = 32 - r.val →
    let x := s.cipher.scratch1
    let y := s.cipher.scratch0
    let y' := rotr64 (y ^^^ x) 3
    let x' := rotl64 (sub64 (x ^^^ s.cfg.keySchedule[r]) y') 8
    exec .decRound s = .next
      { s with
        cipher := { step := s.cipher.step + 1, scratch0 := y', scratch1 := x', output := s.cipher.output }
        outputs := { rsp := .none, event := none, rkIndex := some (BitVec.ofFin r) } }

/-- R113, R53: the normalization tick, the same for both polls. -/
def Obligations.NormalizationTick : Prop :=
  ∀ s : State, s.cipher.step = 33 →
    let t : State :=
      { s with
        cipher :=
          { step := 34
            scratch0 := s.cipher.scratch0
            scratch1 := s.cipher.scratch1
            output := blockOfWords s.cipher.scratch0 s.cipher.scratch1 }
        outputs := { rsp := .none, event := none, rkIndex := none } }
    exec .polleNorm s = .next t ∧ exec .polldNorm s = .next t

/-- R114: the completion tick, the same for both polls: the finished event carries the output buffer, and `step <- 0`
is written last. R114 and R160 say that a handler sees the state before that write; that the event records it
(`seen`) is the model's choice (log 10). -/
def Obligations.CompletionTick : Prop :=
  ∀ s : State, s.cipher.step = 34 →
    let t : State :=
      { s with
        cipher :=
          { step := 0
            scratch0 := s.cipher.scratch0
            scratch1 := s.cipher.scratch1
            output := s.cipher.output }
        outputs :=
          { rsp := .finished
            rkIndex := none
            event :=
              if s.cfg.cbEn.getLsbD 2 = true then
                some { kind := .finished, payload := s.cipher.output, seen := s.cipher }
              else none } }
    exec .polleFin s = .next t ∧ exec .polldFin s = .next t

/-- R119: a poll at a step in 35..63 raises IllegalStep with that step; there is no next state. -/
def Obligations.IllegalPollFaults : Prop :=
  ∀ s : State, 35 ≤ s.cipher.step.toNat →
    exec .polleIll s = .fault (.illegalStep s.cipher.step) ∧
    exec .polldIll s = .fault (.illegalStep s.cipher.step)

/-! ## Words, bytes and rounds -/

/-- R7: 64-bit addition and subtraction wrap. -/
def Obligations.ArithmeticWraps : Prop :=
  ∀ a b : Word,
    (add64 a b).toNat = (a.toNat + b.toNat) % 2 ^ 64 ∧
    (sub64 a b).toNat = (2 ^ 64 + a.toNat - b.toNat) % 2 ^ 64 ∧
    sub64 (add64 a b) b = a

/-- R8: the rotations are circular, bit by bit, and inverse to each other. -/
def Obligations.RotationsAreCircular : Prop :=
  ∀ (v : Word) (n : Nat), 0 < n → n < 64 →
    (∀ i, i < 64 → (rotl64 v n).getLsbD i = v.getLsbD ((i + 64 - n) % 64)) ∧
    (∀ i, i < 64 → (rotr64 v n).getLsbD i = v.getLsbD ((i + n) % 64)) ∧
    rotl64 (rotr64 v n) n = v ∧ rotr64 (rotl64 v n) n = v

/-- R52, R10: the scratch words of an ingested block as sums over its bytes. -/
def Obligations.IngestedWords : Prop :=
  ∀ b : Block,
    (lowWordOfBlock b).toNat = ∑ i : Fin 8, (b[i.val]).toNat * 2 ^ (8 * i.val) ∧
    (highWordOfBlock b).toNat = ∑ i : Fin 8, (b[8 + i.val]).toNat * 2 ^ (8 * i.val)

/-- R53: the output buffer's bytes from the scratch words' bits. -/
def Obligations.SerialisedBytes : Prop :=
  ∀ (w0 w1 : Word) (i : Fin 8),
    (blockOfWords w0 w1)[i.val] = w0.extractLsb' (8 * i.val) 8 ∧
    (blockOfWords w0 w1)[8 + i.val] = w1.extractLsb' (8 * i.val) 8

/-- R54, R82: serialising what was ingested gives the block back, and conversely; on a port the block is the word
`x` above the word `y`. -/
def Obligations.MirrorLaw : Prop :=
  (∀ b : Block, blockOfWords (lowWordOfBlock b) (highWordOfBlock b) = b) ∧
  (∀ w0 w1 : Word, lowWordOfBlock (blockOfWords w0 w1) = w0 ∧ highWordOfBlock (blockOfWords w0 w1) = w1) ∧
  (∀ b : Block, portOfBlock b = highWordOfBlock b ++ lowWordOfBlock b)

/-- R130, R140, R57: the round-key indices at steps 1..32, and that the decryption round at step `r` uses the key
of the encryption round at step `33 - r`. -/
def Obligations.RoundKeyIndices : Prop :=
  ∀ r : StepCount, 1 ≤ r.toNat → r.toNat ≤ 32 →
    (encKeyIndex r).toNat = r.toNat - 1 ∧ (decKeyIndex r).toNat = 32 - r.toNat ∧
    decKeyIndex r = encKeyIndex (33 - r)

/-- R143: with the same key the decryption round undoes the encryption round, and conversely. -/
def Obligations.RoundsAreInverse : Prop :=
  ∀ k x y : Word,
    decRoundWords k (encRoundWords k x y).1 (encRoundWords k x y).2 = (x, y) ∧
    encRoundWords k (decRoundWords k x y).1 (decRoundWords k x y).2 = (x, y)

/-- R28, R169, R89: the status and debug ports. -/
def Obligations.StatusPorts : Prop :=
  ∀ s : State, (s.busy = true ↔ s.cipher.step ≠ 0) ∧
    s.dbgScratch.extractLsb' 0 64 = s.cipher.scratch0 ∧ s.dbgScratch.extractLsb' 64 64 = s.cipher.scratch1

/-! ## Block cycles (R199) -/

/-- R116, R121: from `step = 1`, `k` polls of the kinds that the engine has, mixed or not, bring it to `step = k + 1`,
for `k` up to 33, and the 34th poll completes the block and returns to idle; no fewer polls do. -/
def Obligations.ThirtyFourPolls : Prop :=
  ∀ (s : State) (ps rest : List Inputs), s.cipher.step = 1 →
    s.inputs = ps ++ rest → ps.length = 34 → (∀ c ∈ ps, c.isPollOf s.variant) →
    (∀ k, k ≤ 33 → ∃ t, runs k s = .next t ∧ t.cipher.step.toNat = k + 1) ∧
    (∃ t, runs 34 s = .next t ∧ t.cipher.step = 0 ∧ t.rspCode = 0b11 ∧ t.inputs = rest)

/-- R120, R134: `ENCRYPT blk` on an idle engine, the Configuration held constant, ends idle with the output buffer
holding the 32 encryption rounds of the block. -/
def Obligations.EncryptsBlock : Prop :=
  ∀ (s : State) (blk : Block) (rest : List Inputs), s.cipher.step = 0 → s.variant.hasPollE →
    s.inputs = encryptCommands blk ++ rest →
    ∃ t, runs 35 s = .next t ∧ t.cipher.step = 0 ∧ t.inputs = rest ∧ t.cfg = s.cfg ∧
      t.cipher.output = cipherBlock (encryptWords s.cfg.keySchedule) blk

/-- R120, R146: `DECRYPT blk` on an idle engine, the Configuration held constant, ends idle with the output buffer
holding the 32 decryption rounds of the block. -/
def Obligations.DecryptsBlock : Prop :=
  ∀ (s : State) (blk : Block) (rest : List Inputs), s.cipher.step = 0 → s.variant.hasPollD →
    s.inputs = decryptCommands blk ++ rest →
    ∃ t, runs 35 s = .next t ∧ t.cipher.step = 0 ∧ t.inputs = rest ∧ t.cfg = s.cfg ∧
      t.cipher.output = cipherBlock (decryptWords s.cfg.keySchedule) blk

/-- R145: the round trip, in both orders, for every key schedule and every block, the second engine being the same
or another with the same schedule. -/
def Obligations.RoundTrip : Prop :=
  (∀ (s : State) (blk : Block) (rest : List Inputs), s.cipher.step = 0 → s.variant.hasPollE →
    s.inputs = encryptCommands blk ++ rest →
    ∃ t, runs 35 s = .next t ∧
      ∀ (d : State) (more : List Inputs), d.cipher.step = 0 → d.variant.hasPollD →
        d.cfg.keySchedule = s.cfg.keySchedule → d.inputs = decryptCommands t.cipher.output ++ more →
        ∃ u, runs 35 d = .next u ∧ u.cipher.output = blk) ∧
  (∀ (s : State) (blk : Block) (rest : List Inputs), s.cipher.step = 0 → s.variant.hasPollD →
    s.inputs = decryptCommands blk ++ rest →
    ∃ t, runs 35 s = .next t ∧
      ∀ (d : State) (more : List Inputs), d.cipher.step = 0 → d.variant.hasPollE →
        d.cfg.keySchedule = s.cfg.keySchedule → d.inputs = encryptCommands t.cipher.output ++ more →
        ∃ u, runs 35 d = .next u ∧ u.cipher.output = blk)

/-- R118, R156, R87: over a block cycle driven by polls that the engine has the responses are ACCEPTED, 33 times NONE, FINISHED,
and the events are one accepted with the block and one finished with the result, each if its callback is present. -/
def Obligations.CompletesExactlyOnce : Prop :=
  ∀ (s : State) (blk : Block) (ps rest : List Inputs), s.cipher.step = 0 →
    s.inputs = Inputs.start blk :: (ps ++ rest) → ps.length = 34 →
    (∀ c ∈ ps, c.isPollOf s.variant ∧ c.cfg = none) →
    ∃ t, runs 35 s = .next t ∧
      (trace 35 s).map Outputs.rsp = Response.accepted :: (List.replicate 33 Response.none ++ [Response.finished]) ∧
      eventsOf (trace 35 s) =
        s.cfg.eventIf .accepted blk ++ s.cfg.eventIf .finished t.cipher.output

/-- R31, R182: no leaked state: two idle engines with the same Configuration, given the same block and the same 34
polls, which both of them have, end with the same Cipher State, whatever their scratch words and output buffers
held and whether or not they are of one variant. -/
def Obligations.HistoryDoesNotMatter : Prop :=
  ∀ (s d : State) (blk : Block) (ps rest more : List Inputs), s.cipher.step = 0 → d.cipher.step = 0 →
    s.cfg = d.cfg →
    s.inputs = Inputs.start blk :: (ps ++ rest) → d.inputs = Inputs.start blk :: (ps ++ more) → ps.length = 34 →
    (∀ c ∈ ps, c.isPollOf s.variant ∧ c.isPollOf d.variant ∧ c.cfg = none) →
    ∃ t u, runs 35 s = .next t ∧ runs 35 d = .next u ∧ t.cipher = u.cipher
end

