-- ==== Sys2Proof/Laws/Words.lean ====
section
/-!
SUPPORT. The bits of the words that are put together from others: command words, block ports, ingested words and
rotated words.
-/

namespace Sys2Proof

theorem getLsbD_commandWord (op : OpCode) (p : BitVec 128) (j : Nat) :
    (commandWord op p).getLsbD j = if j < 2 then op.getLsbD j else p.getLsbD (j - 2) :=
  BitVec.getLsbD_append (x := p) (y := op)

@[simp] theorem opOfWord_commandWord (op : OpCode) (p : BitVec 128) : opOfWord (commandWord op p) = op := by
  apply BitVec.eq_of_getLsbD_eq
  intro j hj
  simp [opOfWord, getLsbD_commandWord, hj]

@[simp] theorem portOfWord_commandWord (op : OpCode) (p : BitVec 128) : portOfWord (commandWord op p) = p := by
  apply BitVec.eq_of_getLsbD_eq
  intro j hj
  have h : ¬2 + j < 2 := by omega
  simp [portOfWord, getLsbD_commandWord, hj, h]

/-- A command word is its two fields (R81). -/
theorem commandWord_of_fields (cw : CommandWord) : commandWord (opOfWord cw) (portOfWord cw) = cw := by
  apply BitVec.eq_of_getLsbD_eq
  intro j hj
  rw [getLsbD_commandWord]
  by_cases h : j < 2
  · simp [opOfWord, h]
  · have h1 : 2 + (j - 2) = j := by omega
    have h2 : j - 2 < 128 := by omega
    simp [portOfWord, h, h1, h2]

/-- Putting bits together, as numbers: what the sums of R10 and R54 rest on. -/
theorem toNat_append {n m : Nat} (x : BitVec n) (y : BitVec m) : (x ++ y).toNat = x.toNat * 2 ^ m + y.toNat := by
  rw [BitVec.toNat_append, ← Nat.shiftLeft_add_eq_or_of_lt y.isLt, Nat.shiftLeft_eq]

theorem getElem_blockOfPort (p : BitVec 128) (i : Nat) (h : i < 16) :
    (blockOfPort p)[i] = p.extractLsb' (8 * i) 8 := by
  simp [blockOfPort]

namespace Machine

theorem getLsbD_rotl64 (v : Word) (n i : Nat) :
    (rotl64 v n).getLsbD i = (decide (i < 64) && !decide (i < n) && v.getLsbD (i - n) || v.getLsbD (64 - n + i)) := by
  simp [rotl64]

theorem getLsbD_rotr64 (v : Word) (n i : Nat) :
    (rotr64 v n).getLsbD i =
      (v.getLsbD (n + i) || decide (i < 64) && !decide (i < 64 - n) && v.getLsbD (i - (64 - n))) := by
  simp [rotr64]

end Machine

end Sys2Proof
end

