-- ==== Sys2Proof/Laws/Decode.lean ====
section
/-!
SUPPORT. What the decoder answers, said once, and the ranges of `step` in which each micro-operation is selected.
-/

namespace Sys2Proof

/-- The four ways a command word decodes (R83, R84). -/
theorem decode_ok_cases {v : Variant} {st : StepCount} {valid : Bool} {cw : CommandWord} {i : Instr}
    (h : decode v st valid cw = .ok i) :
    ((valid = false ∨ opOfWord cw = 0b00) ∧ i = .nop) ∨
    (valid = true ∧ opOfWord cw = 0b01 ∧ i = selectStart st (blockOfPort (portOfWord cw))) ∨
    (valid = true ∧ opOfWord cw = 0b10 ∧ v.hasPollE ∧ i = selectPollE st) ∨
    (valid = true ∧ opOfWord cw = 0b11 ∧ v.hasPollD ∧ i = selectPollD st) := by
  have hop : opOfWord cw = 0b00 ∨ opOfWord cw = 0b01 ∨ opOfWord cw = 0b10 ∨ opOfWord cw = 0b11 := by
    generalize opOfWord cw = op
    revert op; decide
  cases valid
  · simp [decode] at h; exact .inl ⟨.inl rfl, h.symm⟩
  · rcases hop with ho | ho | ho | ho <;> simp [decode, ho] at h
    · exact .inl ⟨.inr ho, h.symm⟩
    · exact .inr (.inl ⟨rfl, ho, h.symm⟩)
    · split at h
      · cases h
      · exact .inr (.inr (.inl ⟨rfl, ho, ‹_›, by simpa using h.symm⟩))
    · split at h
      · cases h
      · exact .inr (.inr (.inr ⟨rfl, ho, ‹_›, by simpa using h.symm⟩))

/-- Every refusal of the decoder is a reserved poll code (R84). -/
theorem decode_error_cases {v : Variant} {st : StepCount} {valid : Bool} {cw : CommandWord} {e : DecodeError}
    (h : decode v st valid cw = .error e) :
    (valid = true ∧ opOfWord cw = 0b10 ∧ v = .dec ∧ e = .reservedPollE) ∨
    (valid = true ∧ opOfWord cw = 0b11 ∧ v = .enc ∧ e = .reservedPollD) := by
  have hop : opOfWord cw = 0b00 ∨ opOfWord cw = 0b01 ∨ opOfWord cw = 0b10 ∨ opOfWord cw = 0b11 := by
    generalize opOfWord cw = op
    revert op; decide
  cases valid
  · simp [decode] at h
  · rcases hop with ho | ho | ho | ho <;> simp [decode, ho] at h
    · split at h
      · exact .inl ⟨rfl, ho, ‹_›, by simpa using h.symm⟩
      · cases h
    · split at h
      · exact .inr ⟨rfl, ho, ‹_›, by simpa using h.symm⟩
      · cases h

theorem selectStart_idle (b : Block) : selectStart 0 b = .startAcc b := rfl

theorem selectStart_busy {st : StepCount} (b : Block) (h : st ≠ 0) : selectStart st b = .startRej b :=
  if_neg h

theorem selectPollE_round {st : StepCount} (h1 : 1 ≤ st.toNat) (h2 : st.toNat ≤ 32) :
    selectPollE st = .encRound := by
  have a : st ≠ 0 := by rintro rfl; simp at h1
  have b : st ≤ 32 := by simpa [BitVec.le_def] using h2
  rw [selectPollE, if_neg a, if_pos b]

theorem selectPollD_round {st : StepCount} (h1 : 1 ≤ st.toNat) (h2 : st.toNat ≤ 32) :
    selectPollD st = .decRound := by
  have a : st ≠ 0 := by rintro rfl; simp at h1
  have b : st ≤ 32 := by simpa [BitVec.le_def] using h2
  rw [selectPollD, if_neg a, if_pos b]

theorem selectPollE_illegal {st : StepCount} (h : 35 ≤ st.toNat) : selectPollE st = .polleIll := by
  revert st; decide

theorem selectPollD_illegal {st : StepCount} (h : 35 ≤ st.toNat) : selectPollD st = .polldIll := by
  revert st; decide

/-- What the decoder answers for a poll is selected at the current step (R83). -/
theorem selectPollE_selected (st : StepCount) : (selectPollE st).selectedAt st = true := by
  revert st; decide

theorem selectPollD_selected (st : StepCount) : (selectPollD st).selectedAt st = true := by
  revert st; decide

theorem selectStart_selected (st : StepCount) (b : Block) : (selectStart st b).selectedAt st = true := by
  unfold selectStart
  split
  · next h => subst h; rfl
  · next h =>
    have h0 : st.toNat ≠ 0 := fun e => h (BitVec.eq_of_toNat_eq e)
    have := st.isLt
    exact decide_eq_true ⟨by show 1 ≤ st.toNat; omega, by show st.toNat ≤ 63; omega⟩

end Sys2Proof
end

