-- ==== Sys2Proof/Laws/State.lean ====
section
/-!
SUPPORT. The small lemmas of the state: what each operation of Machine/Ops.lean leaves in each field, true by
unfolding, so that no later proof unfolds a record update.
-/

namespace Sys2Proof.Machine

@[simp] theorem setStep_step (v : StepCount) (s : State) : (s.setStep v).cipher.step = v := rfl
@[simp] theorem setStep_scratch0 (v : StepCount) (s : State) :
    (s.setStep v).cipher.scratch0 = s.cipher.scratch0 := rfl
@[simp] theorem setStep_scratch1 (v : StepCount) (s : State) :
    (s.setStep v).cipher.scratch1 = s.cipher.scratch1 := rfl
@[simp] theorem setStep_output (v : StepCount) (s : State) : (s.setStep v).cipher.output = s.cipher.output := rfl
@[simp] theorem setStep_cfg (v : StepCount) (s : State) : (s.setStep v).cfg = s.cfg := rfl
@[simp] theorem setStep_variant (v : StepCount) (s : State) : (s.setStep v).variant = s.variant := rfl
@[simp] theorem setStep_outputs (v : StepCount) (s : State) : (s.setStep v).outputs = s.outputs := rfl
@[simp] theorem setStep_inputs (v : StepCount) (s : State) : (s.setStep v).inputs = s.inputs := rfl
@[simp] theorem setStep_draw (v : StepCount) (s : State) : (s.setStep v).draw = s.draw := rfl

@[simp] theorem setScratch_step (a b : Word) (s : State) : (s.setScratch a b).cipher.step = s.cipher.step := rfl
@[simp] theorem setScratch_scratch0 (a b : Word) (s : State) : (s.setScratch a b).cipher.scratch0 = a := rfl
@[simp] theorem setScratch_scratch1 (a b : Word) (s : State) : (s.setScratch a b).cipher.scratch1 = b := rfl
@[simp] theorem setScratch_output (a b : Word) (s : State) :
    (s.setScratch a b).cipher.output = s.cipher.output := rfl
@[simp] theorem setScratch_cfg (a b : Word) (s : State) : (s.setScratch a b).cfg = s.cfg := rfl
@[simp] theorem setScratch_variant (a b : Word) (s : State) : (s.setScratch a b).variant = s.variant := rfl
@[simp] theorem setScratch_outputs (a b : Word) (s : State) : (s.setScratch a b).outputs = s.outputs := rfl
@[simp] theorem setScratch_inputs (a b : Word) (s : State) : (s.setScratch a b).inputs = s.inputs := rfl
@[simp] theorem setScratch_draw (a b : Word) (s : State) : (s.setScratch a b).draw = s.draw := rfl

@[simp] theorem setOutput_step (b : Block) (s : State) : (s.setOutput b).cipher.step = s.cipher.step := rfl
@[simp] theorem setOutput_scratch0 (b : Block) (s : State) :
    (s.setOutput b).cipher.scratch0 = s.cipher.scratch0 := rfl
@[simp] theorem setOutput_scratch1 (b : Block) (s : State) :
    (s.setOutput b).cipher.scratch1 = s.cipher.scratch1 := rfl
@[simp] theorem setOutput_output (b : Block) (s : State) : (s.setOutput b).cipher.output = b := rfl
@[simp] theorem setOutput_cfg (b : Block) (s : State) : (s.setOutput b).cfg = s.cfg := rfl
@[simp] theorem setOutput_variant (b : Block) (s : State) : (s.setOutput b).variant = s.variant := rfl
@[simp] theorem setOutput_outputs (b : Block) (s : State) : (s.setOutput b).outputs = s.outputs := rfl
@[simp] theorem setOutput_inputs (b : Block) (s : State) : (s.setOutput b).inputs = s.inputs := rfl
@[simp] theorem setOutput_draw (b : Block) (s : State) : (s.setOutput b).draw = s.draw := rfl

@[simp] theorem quiet_cipher (s : State) : s.quiet.cipher = s.cipher := rfl
@[simp] theorem quiet_cfg (s : State) : s.quiet.cfg = s.cfg := rfl
@[simp] theorem quiet_variant (s : State) : s.quiet.variant = s.variant := rfl
@[simp] theorem quiet_outputs (s : State) : s.quiet.outputs = Outputs.quiet := rfl
@[simp] theorem quiet_inputs (s : State) : s.quiet.inputs = s.inputs := rfl
@[simp] theorem quiet_draw (s : State) : s.quiet.draw = s.draw := rfl
@[simp] theorem outputs_quiet_rsp : Outputs.quiet.rsp = .none := rfl
@[simp] theorem outputs_quiet_event : Outputs.quiet.event = none := rfl
@[simp] theorem outputs_quiet_rkIndex : Outputs.quiet.rkIndex = none := rfl

@[simp] theorem respond_cipher (r : Response) (s : State) : (s.respond r).cipher = s.cipher := rfl
@[simp] theorem respond_cfg (r : Response) (s : State) : (s.respond r).cfg = s.cfg := rfl
@[simp] theorem respond_variant (r : Response) (s : State) : (s.respond r).variant = s.variant := rfl
@[simp] theorem respond_inputs (r : Response) (s : State) : (s.respond r).inputs = s.inputs := rfl
@[simp] theorem respond_draw (r : Response) (s : State) : (s.respond r).draw = s.draw := rfl
@[simp] theorem respond_rsp (r : Response) (s : State) : (s.respond r).outputs.rsp = r := rfl
@[simp] theorem respond_event (r : Response) (s : State) : (s.respond r).outputs.event = s.outputs.event := rfl
@[simp] theorem respond_rkIndex (r : Response) (s : State) :
    (s.respond r).outputs.rkIndex = s.outputs.rkIndex := rfl

@[simp] theorem driveKeyIndex_cipher (i : KeyIndex) (s : State) : (s.driveKeyIndex i).cipher = s.cipher := rfl
@[simp] theorem driveKeyIndex_cfg (i : KeyIndex) (s : State) : (s.driveKeyIndex i).cfg = s.cfg := rfl
@[simp] theorem driveKeyIndex_variant (i : KeyIndex) (s : State) : (s.driveKeyIndex i).variant = s.variant := rfl
@[simp] theorem driveKeyIndex_inputs (i : KeyIndex) (s : State) : (s.driveKeyIndex i).inputs = s.inputs := rfl
@[simp] theorem driveKeyIndex_draw (i : KeyIndex) (s : State) : (s.driveKeyIndex i).draw = s.draw := rfl
@[simp] theorem driveKeyIndex_rsp (i : KeyIndex) (s : State) :
    (s.driveKeyIndex i).outputs.rsp = s.outputs.rsp := rfl
@[simp] theorem driveKeyIndex_event (i : KeyIndex) (s : State) :
    (s.driveKeyIndex i).outputs.event = s.outputs.event := rfl
@[simp] theorem driveKeyIndex_rkIndex (i : KeyIndex) (s : State) :
    (s.driveKeyIndex i).outputs.rkIndex = some i := rfl

@[simp] theorem sample_cipher (s : State) : s.sample.cipher = s.cipher := rfl
@[simp] theorem sample_cfg (s : State) : s.sample.cfg = s.presented.cfg.getD s.cfg := rfl
@[simp] theorem sample_variant (s : State) : s.sample.variant = s.variant := rfl
@[simp] theorem sample_outputs (s : State) : s.sample.outputs = s.outputs := rfl
@[simp] theorem sample_inputs (s : State) : s.sample.inputs = s.inputs.tail := rfl
@[simp] theorem sample_draw (s : State) : s.sample.draw = s.draw + 1 := rfl

@[simp] theorem applyReset_step (s : State) : s.applyReset.cipher.step = 0 := rfl
@[simp] theorem applyReset_cfg (s : State) : s.applyReset.cfg = s.cfg := rfl
@[simp] theorem applyReset_variant (s : State) : s.applyReset.variant = s.variant := rfl
@[simp] theorem applyReset_outputs (s : State) : s.applyReset.outputs = Outputs.quiet := rfl
@[simp] theorem applyReset_inputs (s : State) : s.applyReset.inputs = s.inputs := rfl
@[simp] theorem applyReset_draw (s : State) : s.applyReset.draw = s.draw := rfl

theorem presented_nil {s : State} (h : s.inputs = []) : s.presented = Inputs.quiet := by
  simp [State.presented, h]

theorem presented_cons {s : State} {c : Inputs} {rest : List Inputs} (h : s.inputs = c :: rest) :
    s.presented = c := by
  simp [State.presented, h]

end Sys2Proof.Machine
end

