-- ==== Sys2Proof/Laws/Ops.lean ====
section
/-!
SUPPORT. Once for each shared operation, everything it can do; the callers cite these and do not unfold it.
-/

namespace Sys2Proof.Machine

/-- `requireStep` answers its result in range and the named refusal outside it: nothing else. -/
theorem requireStep_in {lo hi : Nat} {m : String} {s : State} {r : Result}
    (h : lo ≤ s.cipher.step.toNat ∧ s.cipher.step.toNat ≤ hi) : requireStep lo hi m s r = r := by
  simp [requireStep, h]

theorem requireStep_out {lo hi : Nat} {m : String} {s : State} {r : Result}
    (h : ¬(lo ≤ s.cipher.step.toNat ∧ s.cipher.step.toNat ≤ hi)) :
    requireStep lo hi m s r = .refused (.notSelected m) := by
  simp only [requireStep, if_neg h]

theorem requireStep_next {lo hi : Nat} {m : String} {s t : State} {r : Result} :
    requireStep lo hi m s r = .next t ↔
      (lo ≤ s.cipher.step.toNat ∧ s.cipher.step.toNat ≤ hi) ∧ r = .next t := by
  unfold requireStep
  split <;> simp_all

/-- An event changes nothing but the event output. -/
@[simp] theorem emit_cipher (k : EventKind) (b : Block) (s : State) : (s.emit k b).cipher = s.cipher := rfl

@[simp] theorem emit_cfg (k : EventKind) (b : Block) (s : State) : (s.emit k b).cfg = s.cfg := rfl

@[simp] theorem emit_variant (k : EventKind) (b : Block) (s : State) : (s.emit k b).variant = s.variant := rfl

@[simp] theorem emit_inputs (k : EventKind) (b : Block) (s : State) : (s.emit k b).inputs = s.inputs := rfl

@[simp] theorem emit_draw (k : EventKind) (b : Block) (s : State) : (s.emit k b).draw = s.draw := rfl

@[simp] theorem emit_rsp (k : EventKind) (b : Block) (s : State) :
    (s.emit k b).outputs.rsp = s.outputs.rsp := rfl

@[simp] theorem emit_rkIndex (k : EventKind) (b : Block) (s : State) :
    (s.emit k b).outputs.rkIndex = s.outputs.rkIndex := rfl

@[simp] theorem emit_event (k : EventKind) (b : Block) (s : State) :
    (s.emit k b).outputs.event =
      s.cfg.gate k { kind := k, payload := b, seen := s.cipher } s.outputs.event := rfl

theorem gate_eq_ite (c : Configuration) (k : EventKind) (e : Event) (before : Option Event) :
    c.gate k e before = if c.enables k = true then some e else before := by
  unfold Configuration.gate; cases c.enables k <;> rfl

theorem gate_eq_some_iff {c : Configuration} {k : EventKind} {e e' : Event} :
    c.gate k e none = some e' ↔ c.enables k = true ∧ e = e' := by
  unfold Configuration.gate; cases c.enables k <;> simp

/-- What an idle tick leaves is what `NOP` leaves. -/
@[simp] theorem idleTick_eq (s : State) : idleTick s = s.quiet := rfl

@[simp] theorem normTick_cipher (s : State) :
    (normTick s).cipher =
      { s.cipher with step := 34, output := blockOfWords s.cipher.scratch0 s.cipher.scratch1 } := rfl
@[simp] theorem normTick_cfg (s : State) : (normTick s).cfg = s.cfg := rfl
@[simp] theorem normTick_variant (s : State) : (normTick s).variant = s.variant := rfl
@[simp] theorem normTick_inputs (s : State) : (normTick s).inputs = s.inputs := rfl
@[simp] theorem normTick_draw (s : State) : (normTick s).draw = s.draw := rfl
@[simp] theorem normTick_outputs (s : State) : (normTick s).outputs = Outputs.quiet := rfl

@[simp] theorem finTick_cipher (s : State) : (finTick s).cipher = { s.cipher with step := 0 } := rfl
@[simp] theorem finTick_cfg (s : State) : (finTick s).cfg = s.cfg := rfl
@[simp] theorem finTick_variant (s : State) : (finTick s).variant = s.variant := rfl
@[simp] theorem finTick_inputs (s : State) : (finTick s).inputs = s.inputs := rfl
@[simp] theorem finTick_draw (s : State) : (finTick s).draw = s.draw := rfl
@[simp] theorem finTick_rsp (s : State) : (finTick s).outputs.rsp = .finished := rfl
@[simp] theorem finTick_rkIndex (s : State) : (finTick s).outputs.rkIndex = none := rfl

@[simp] theorem finTick_event (s : State) :
    (finTick s).outputs.event =
      s.cfg.gate .finished { kind := .finished, payload := s.cipher.output, seen := s.cipher } none := rfl

@[simp] theorem roundTick_cipher (i : KeyIndex) (p : Word × Word) (s : State) :
    (roundTick i p s).cipher =
      { step := s.cipher.step + 1, scratch0 := p.2, scratch1 := p.1, output := s.cipher.output } := rfl
@[simp] theorem roundTick_cfg (i : KeyIndex) (p : Word × Word) (s : State) : (roundTick i p s).cfg = s.cfg := rfl
@[simp] theorem roundTick_variant (i : KeyIndex) (p : Word × Word) (s : State) :
    (roundTick i p s).variant = s.variant := rfl
@[simp] theorem roundTick_inputs (i : KeyIndex) (p : Word × Word) (s : State) :
    (roundTick i p s).inputs = s.inputs := rfl
@[simp] theorem roundTick_draw (i : KeyIndex) (p : Word × Word) (s : State) :
    (roundTick i p s).draw = s.draw := rfl
@[simp] theorem roundTick_outputs (i : KeyIndex) (p : Word × Word) (s : State) :
    (roundTick i p s).outputs = { rsp := .none, event := none, rkIndex := some i } := rfl

end Sys2Proof.Machine
end

