-- ==== Sys2Proof/Laws/Exec.lean ====
section
/-!
SUPPORT. What one micro-operation can do, said once: if it answers a next state, its `require` held and the next
state is the one of its rule. Every claim over all micro-operations starts from `exec_next_cases`.
-/

namespace Sys2Proof.Machine

/-- A next state comes from a micro-operation selected at the current step, and is the one its rule gives; the
illegal polls have none. -/
theorem exec_next_cases {i : Instr} {s t : State} (h : exec i s = .next t) :
    (i = .nop ∧ t = s.quiet) ∨
    (∃ b, i = .startAcc b ∧ s.cipher.step.toNat = 0 ∧
      t = (((s.quiet.setScratch (lowWordOfBlock b) (highWordOfBlock b)).setStep 1).respond .accepted).emit
        .accepted b) ∨
    (∃ b, i = .startRej b ∧ 1 ≤ s.cipher.step.toNat ∧ t = (s.quiet.respond .rejected).emit .rejected b) ∨
    ((i = .polleIdle ∨ i = .polldIdle) ∧ s.cipher.step.toNat = 0 ∧ t = s.quiet) ∨
    (i = .encRound ∧ (1 ≤ s.cipher.step.toNat ∧ s.cipher.step.toNat ≤ 32) ∧
      t = roundTick (encKeyIndex s.cipher.step)
        (encRoundWords (s.keyRead (encKeyIndex s.cipher.step)) s.cipher.scratch1 s.cipher.scratch0) s) ∨
    (i = .decRound ∧ (1 ≤ s.cipher.step.toNat ∧ s.cipher.step.toNat ≤ 32) ∧
      t = roundTick (decKeyIndex s.cipher.step)
        (decRoundWords (s.keyRead (decKeyIndex s.cipher.step)) s.cipher.scratch1 s.cipher.scratch0) s) ∨
    ((i = .polleNorm ∨ i = .polldNorm) ∧ s.cipher.step.toNat = 33 ∧ t = normTick s) ∨
    ((i = .polleFin ∨ i = .polldFin) ∧ s.cipher.step.toNat = 34 ∧ t = finTick s) := by
  cases i <;>
    simp only [exec, execNop, execStartAcc, execStartRej, execPolleIdle, execPolldIdle, execEncRound, execDecRound,
      execPolleNorm, execPolldNorm, execPolleFin, execPolldFin, execPolleIll, execPolldIll, requireStep_next,
      Host.Outcome.next.injEq, idleTick_eq, raiseIllegalStep, reduceCtorEq, and_false] at h
  case nop => exact .inl ⟨rfl, h.symm⟩
  case startAcc b => exact .inr (.inl ⟨b, rfl, by omega, h.2.symm⟩)
  case startRej b => exact .inr (.inr (.inl ⟨b, rfl, h.1.1, h.2.symm⟩))
  case polleIdle => exact .inr (.inr (.inr (.inl ⟨.inl rfl, by omega, h.2.symm⟩)))
  case polldIdle => exact .inr (.inr (.inr (.inl ⟨.inr rfl, by omega, h.2.symm⟩)))
  case encRound => exact .inr (.inr (.inr (.inr (.inl ⟨rfl, h.1, h.2.symm⟩))))
  case decRound => exact .inr (.inr (.inr (.inr (.inr (.inl ⟨rfl, h.1, h.2.symm⟩)))))
  case polleNorm => exact .inr (.inr (.inr (.inr (.inr (.inr (.inl ⟨.inl rfl, by omega, h.2.symm⟩))))))
  case polldNorm => exact .inr (.inr (.inr (.inr (.inr (.inr (.inl ⟨.inr rfl, by omega, h.2.symm⟩))))))
  case polleFin => exact .inr (.inr (.inr (.inr (.inr (.inr (.inr ⟨.inl rfl, by omega, h.2.symm⟩))))))
  case polldFin => exact .inr (.inr (.inr (.inr (.inr (.inr (.inr ⟨.inr rfl, by omega, h.2.symm⟩))))))

end Sys2Proof.Machine
end

