-- ==== Sys2Proof/Laws/PerInstr.lean ====
section
/-!
SUPPORT. Statements for all micro-operations, one lemma per constructor. The family CodeKept: the command code of
a micro-operation's word is its row's `match` value (spec/opcode_table.json; 30_encoding R81, R83).
-/

namespace Sys2Proof.Laws.CodeKept

/-- The two low bits of the command word are the row's command code. -/
def Statement (i : Instr) : Prop := opOfWord (encode i) = i.op

theorem nop : Statement .nop := opOfWord_commandWord _ _
theorem startAcc (blk : Block) : Statement (.startAcc blk) := opOfWord_commandWord _ _
theorem startRej (blk : Block) : Statement (.startRej blk) := opOfWord_commandWord _ _
theorem polleIdle : Statement .polleIdle := opOfWord_commandWord _ _
theorem polldIdle : Statement .polldIdle := opOfWord_commandWord _ _
theorem encRound : Statement .encRound := opOfWord_commandWord _ _
theorem decRound : Statement .decRound := opOfWord_commandWord _ _
theorem polleNorm : Statement .polleNorm := opOfWord_commandWord _ _
theorem polldNorm : Statement .polldNorm := opOfWord_commandWord _ _
theorem polleFin : Statement .polleFin := opOfWord_commandWord _ _
theorem polldFin : Statement .polldFin := opOfWord_commandWord _ _
theorem polleIll : Statement .polleIll := opOfWord_commandWord _ _
theorem polldIll : Statement .polldIll := opOfWord_commandWord _ _

end Sys2Proof.Laws.CodeKept
end

