-- ==== Sys2Proof/Laws/Step.lean ====
section
/-!
SUPPORT. What one cycle can do, said once, and the recursion of runs and traces.
-/

namespace Sys2Proof.Machine

theorem step_of_rst {s : State} (h : s.presented.rst = true) : step s = .next s.sample.applyReset := by
  simp [step, h]

theorem step_of_decode {s : State} {i : Instr} (h : s.presented.rst = false)
    (hd : s.sample.decodeCommand s.presented = .ok i) : step s = exec i s.sample := by
  simp [step, h, hd]

theorem step_of_reserved {s : State} {e : DecodeError} (h : s.presented.rst = false)
    (hd : s.sample.decodeCommand s.presented = .error e) : step s = refuseReserved e := by
  simp [step, h, hd]

/-- A next state comes from a reset cycle or from the micro-operation that the command decodes to. -/
theorem step_next_cases {s t : State} (h : step s = .next t) :
    (s.presented.rst = true ∧ t = s.sample.applyReset) ∨
    (s.presented.rst = false ∧ ∃ i, s.sample.decodeCommand s.presented = .ok i ∧ exec i s.sample = .next t) := by
  unfold step at h
  split at h
  · exact .inl ⟨‹_›, by simpa using h.symm⟩
  · split at h
    · next i hi => exact .inr ⟨by simp_all, i, hi, h⟩
    · unfold refuseReserved at h; split at h <;> cases h

/-- The four ways the command presented in a cycle decodes, in the names of the ports (R81, R83, R84). -/
theorem decodeCommand_cases {s : State} {i : Instr} (hd : s.sample.decodeCommand s.presented = .ok i) :
    ((s.presented.cmdValid = false ∨ s.presented.cmdOp = 0b00) ∧ i = .nop) ∨
    (s.presented.cmdValid = true ∧ s.presented.cmdOp = 0b01 ∧
      i = selectStart s.cipher.step (blockOfPort s.presented.cmdBlock)) ∨
    (s.presented.cmdValid = true ∧ s.presented.cmdOp = 0b10 ∧ s.variant.hasPollE ∧
      i = selectPollE s.cipher.step) ∨
    (s.presented.cmdValid = true ∧ s.presented.cmdOp = 0b11 ∧ s.variant.hasPollD ∧
      i = selectPollD s.cipher.step) := by
  have h := decode_ok_cases hd
  simpa only [opOfWord_commandWord, portOfWord_commandWord, sample_cipher, sample_variant] using h

/-- The word placed by `withFetchWord` is what the next cycle presents. -/
@[simp] theorem withFetchWord_presented (s : State) (nbits w : Nat) :
    (s.withFetchWord nbits w).presented = inputsOfWord (tableWord nbits w) := rfl

@[simp] theorem runs_zero (s : State) : runs 0 s = .next s := rfl

theorem runs_succ {s t : State} (n : Nat) (h : step s = .next t) : runs (n + 1) s = runs n t := by
  simp [runs, h]

@[simp] theorem trace_zero (s : State) : trace 0 s = [] := rfl

theorem trace_succ {s t : State} (n : Nat) (h : step s = .next t) :
    trace (n + 1) s = t.outputs :: trace n t := by
  simp [trace, h]

/-- A run of `m` and then `n` transitions is a run of `m + n`. -/
theorem runs_add {m : Nat} : ∀ {s t : State} (n : Nat), runs m s = .next t → runs (m + n) s = runs n t := by
  induction m with
  | zero => intro s t n h; cases h; simp
  | succ m ih =>
    intro s t n h
    simp only [runs] at h
    split at h
    · next u hu => rw [Nat.succ_add_eq_add_succ, Nat.add_succ, runs_succ (m + n) hu]; exact ih n h
    · cases h
    · cases h

theorem trace_add {m : Nat} :
    ∀ {s t : State} (n : Nat), runs m s = .next t → trace (m + n) s = trace m s ++ trace n t := by
  induction m with
  | zero => intro s t n h; cases h; simp
  | succ m ih =>
    intro s t n h
    simp only [runs] at h
    split at h
    · next u hu =>
      rw [Nat.succ_add_eq_add_succ, Nat.add_succ, trace_succ (m + n) hu, trace_succ m hu, ih n h]
      rfl
    · cases h
    · cases h

end Sys2Proof.Machine
end

