-- ==== Sys2Proof/Tests/Slice0.lean ====
section
/-!
SUPPORT. The model's own tests, their expected values taken from spec/95_test_vectors.md (sections named at each)
and from the worked examples of the rules, and one witness for the hypotheses of each statement.
-/

namespace Sys2Proof.Tests

open Sys2Proof Sys2Proof.Machine

/-- What a result's next state shows, if there is one. -/
def after {α : Type} (r : Result) (f : State → α) : Option α :=
  match r with
  | .next t => some (f t)
  | .fault _ => none
  | .refused _ => none

/-- Byte `i` has value `i` (section 2.2). -/
def countingBlock : Block := #v[0, 1, 2, 3, 4, 5, 6, 7, 8, 9, 10, 11, 12, 13, 14, 15]

/-- The schedule `KS_SYN` (section 2.9). -/
def ksSyn : KeySchedule := Vector.ofFn fun i => BitVec.ofNat 64 ((i + 1) * 0x0101010101010101)

/-- An engine of both polls at a step, the scratch words of section 2.7, all callbacks present. -/
def engineAt (n : StepCount) (cs : List Inputs) : State :=
  { State.reset with
    cipher :=
      { step := n, scratch0 := 0x0123456789abcdef, scratch1 := 0xfedcba9876543210, output := countingBlock }
    cfg := { keySchedule := ksSyn, cbEn := 0b111 }
    inputs := cs }

/-- The same engine with another variant. -/
def variantAt (v : Variant) (n : StepCount) (cs : List Inputs) : State := { engineAt n cs with variant := v }

/-- A cycle with `rst = 1` that also presents a poll. -/
def resetInputs : Inputs := { Inputs.pollE with rst := true }

/-! ## Well-formedness: an ill-formed term for each check, and a well-formed one -/

theorem test_illFormed_step :
    (Instr.startAcc countingBlock).wellFormed .both 1 = false ∧
    (Instr.startRej countingBlock).wellFormed .both 0 = false ∧
    Instr.encRound.wellFormed .both 33 = false ∧ Instr.decRound.wellFormed .both 0 = false ∧
    Instr.polleNorm.wellFormed .both 34 = false ∧ Instr.polldFin.wellFormed .both 0 = false ∧
    Instr.polleIdle.wellFormed .both 1 = false ∧ Instr.polleIll.wellFormed .both 34 = false := by decide

theorem test_illFormed_reserved :
    Instr.decRound.wellFormed .enc 1 = false ∧ Instr.encRound.wellFormed .dec 1 = false ∧
    Instr.polldIll.wellFormed .enc 40 = false := by decide

theorem test_wellFormed :
    Instr.nop.wellFormed .enc 63 = true ∧ (Instr.startRej countingBlock).wellFormed .dec 63 = true ∧
    Instr.encRound.wellFormed .enc 32 = true ∧ Instr.decRound.wellFormed .both 1 = true := by decide

/-! ## Decoding: words written out from R80 to R82 and section 2.1 -/

/-- `START`: the 128 bits of the block above the code 01. -/
theorem test_decode_start_bits :
    decode .both 0 true ((0x0f0e0d0c0b0a09080706050403020100 : BitVec 128) ++ (0b01 : BitVec 2)) =
      .ok (.startAcc countingBlock) := by decide

/-- Section 2.1, the source's plaintext. -/
theorem test_decode_start_plaintext :
    decode .both 0 true 0x1b185d9a5d5c59481d1a481959185b481 =
      .ok (.startAcc #v[0x20, 0x6d, 0x61, 0x64, 0x65, 0x20, 0x69, 0x74, 0x20, 0x65, 0x71, 0x75, 0x69, 0x76,
        0x61, 0x6c]) := by decide

/-- Section 2.1, bytes 0x80 and 0x01 at the two ends, presented while busy. -/
theorem test_decode_start_rejected :
    decode .enc 34 true 0x004000000000000000000000000000201 =
      .ok (.startRej #v[0x80, 0, 0, 0, 0, 0, 0, 0, 0, 0, 0, 0, 0, 0, 0, 0x01]) := by decide

/-- Section 2.4: `POLLE`, the code 10, at the ends of every range of `step`; the block port is ignored. -/
theorem test_decode_pollE :
    decode .both 0 true 0b10 = .ok .polleIdle ∧ decode .both 1 true 0b10 = .ok .encRound ∧
    decode .enc 32 true 0b1010 = .ok .encRound ∧ decode .both 33 true 0b10 = .ok .polleNorm ∧
    decode .both 34 true 0b10 = .ok .polleFin ∧ decode .both 35 true 0b10 = .ok .polleIll ∧
    decode .both 63 true 0b10 = .ok .polleIll := by decide

/-- Section 2.4: `POLLD`, the code 11, at the ends of every range of `step`. -/
theorem test_decode_pollD :
    decode .both 0 true 0b11 = .ok .polldIdle ∧ decode .both 1 true 0b11 = .ok .decRound ∧
    decode .dec 32 true 0b11 = .ok .decRound ∧ decode .both 33 true 0b11 = .ok .polldNorm ∧
    decode .both 34 true 0b11 = .ok .polldFin ∧ decode .both 35 true 0b11 = .ok .polldIll ∧
    decode .both 63 true 0b11 = .ok .polldIll := by decide

/-- `NOP`: the code 00, or any word that is not presented (R81). -/
theorem test_decode_nop :
    decode .both 17 true 0b00 = .ok .nop ∧ decode .enc 17 false 0b11 = .ok .nop := by decide

/-- R84: the reserved codes, by name. -/
theorem test_decode_reserved :
    decode .enc 0 true 0b11 = .error .reservedPollD ∧ decode .dec 40 true 0b10 = .error .reservedPollE := by
  decide

/-- `decodeTableWord` reads a command as the engine of `State.reset` does (log 13). -/
theorem test_tableWord_reads_as_reset :
    State.reset.cipher.step = 0 ∧ State.reset.variant = .both ∧
    decodeTableWord 8 0 = some .nop ∧ decodeTableWord 136 0x03c3834302c2824201c1814100c080401 =
      some (.startAcc countingBlock) ∧
    decodeTableWord 8 2 = some .polleIdle ∧ decodeTableWord 8 3 = some .polldIdle := by decide

theorem test_withFetchWord_runs_it :
    step (State.reset.withFetchWord 8 1) =
      exec (.startAcc (Vector.replicate 16 0)) (State.reset.withFetchWord 8 1).sample := rfl

/-! ## The micro-operations -/

/-- R110, corner case: a block in flight stays where it is. -/
theorem test_nop_in_flight :
    after (exec .nop (engineAt 17 [])) (fun t => (t.cipher, t.outputs)) =
      some ((engineAt 17 []).cipher, Outputs.quiet) := by decide

/-- Section 2.3, first row; `output` is not touched. -/
theorem test_startAcc :
    after (step (engineAt 0 [Inputs.start countingBlock])) (fun t => (t.cipher, t.outputs.rsp, t.evAccepted)) =
      some ({ step := 1, scratch0 := 0x0706050403020100, scratch1 := 0x0f0e0d0c0b0a0908, output := countingBlock },
        .accepted, true) := by decide

/-- Section 2.3, third row: `cb_en = 110`, no event. -/
theorem test_startAcc_no_callback :
    after (exec (.startAcc countingBlock)
        { engineAt 0 [] with cfg := { keySchedule := ksSyn, cbEn := 0b110 } }) (fun t => (t.rspCode, t.evAccepted)) =
      some (0b01, false) := by decide

/-- Section 2.3: rejected at step 34, the block handed back. -/
theorem test_startRej :
    after (step (engineAt 34 [Inputs.start (Vector.replicate 16 0xff)]))
        (fun t => (t.cipher, t.outputs.rsp, t.outputs.event.map Event.payload)) =
      some ((engineAt 34 []).cipher, .rejected, some (Vector.replicate 16 0xff)) := by decide

/-- Section 2.3, last row: step 40 is rejected too. -/
theorem test_startRej_unreachable_step :
    after (exec (.startRej countingBlock) (engineAt 40 [])) (fun t => (t.cipher, t.rspCode)) =
      some ((engineAt 40 []).cipher, 0b10) := by decide

/-- R111: after a block, an idle poll neither repeats `finished` nor touches the result. -/
theorem test_idle_polls :
    after (step (engineAt 0 [Inputs.pollE])) (fun t => (t.cipher, t.outputs)) =
      some ((engineAt 0 []).cipher, Outputs.quiet) ∧
    after (step (engineAt 0 [Inputs.pollD])) (fun t => (t.cipher, t.outputs)) =
      some ((engineAt 0 []).cipher, Outputs.quiet) := by decide

/-- Section 2.5, rows 3 and 11. -/
theorem test_encRound_words :
    encRoundWords 0x0123456789abcdef 0x00000000000000ff 0x8000000000000000 =
      (0x7e23456789abcdef, 0x7e23456789abcdeb) ∧
    encRoundWords 0x0706050403020100 0x6c61766975716520 0x7469206564616d20 =
      (0x93d384dfced4df85, 0x309a87f4eddfb686) := by decide

/-- Section 3, P4, instance E, row 2: round 1 of the counting block reads key 0 of `KS_SYN`. -/
theorem test_encRound :
    after (exec .encRound
        { engineAt 1 [] with
          cipher :=
            { step := 1
              scratch0 := 0x0706050403020100
              scratch1 := 0x0f0e0d0c0b0a0908
              output := countingBlock } })
        (fun t => (t.cipher.step, t.cipher.scratch1, t.cipher.scratch0, t.rkRe, t.rkIndexPort)) =
      some (2, 0x0e1412100e0c0a08, 0x36243a30161c0208, true, 0) := by decide

/-- Section 2.6, rows 4 and 11. -/
theorem test_decRound_words :
    decRoundWords 0x0000000000000000 0x0000000000000001 0x0000000000000000 =
      (0x00000000000001e0, 0x2000000000000000) ∧
    decRoundWords 0x2199c870db8ec93f 0xa65d985179783265 0x7860fedf5c570d18 =
      (0xfca34fde51136bcb, 0xbbc7acd1c4a5e7ef) := by decide

/-- Section 3, P4, instance D, row 33: round 32 reads key 0 of `KS_SYN`. -/
theorem test_decRound :
    after (exec .decRound
        { engineAt 32 [] with
          cipher :=
            { step := 32
              scratch0 := 0x36243a30161c0208
              scratch1 := 0x0e1412100e0c0a08
              output := countingBlock } })
        (fun t => (t.cipher.step, t.cipher.scratch1, t.cipher.scratch0, t.rkRe, t.rkIndexPort)) =
      some (33, 0x0f0e0d0c0b0a0908, 0x0706050403020100, true, 0) := by decide

/-- Section 2.7, first two rows. -/
theorem test_norm :
    after (exec .polleNorm (engineAt 33 [])) (fun t => (t.cipher.step, t.cipher.output)) =
      some (34, #v[0xef, 0xcd, 0xab, 0x89, 0x67, 0x45, 0x23, 0x01, 0x10, 0x32, 0x54, 0x76, 0x98, 0xba, 0xdc,
        0xfe]) ∧
    after (exec .polldNorm (engineAt 33 [])) (fun t => t.cipher) =
      after (exec .polleNorm (engineAt 33 [])) (fun t => t.cipher) := by decide

/-- Section 2.7: the completion tick, its event and response; the handler sees step 34 (R160). -/
theorem test_fin :
    after (exec .polleFin (engineAt 34 [])) (fun t => (t.cipher.step, t.cipher.output, t.rspCode, t.outputs.event)) =
      some (0, countingBlock, 0b11,
        some { kind := .finished, payload := countingBlock, seen := (engineAt 34 []).cipher }) := by decide

/-- Section 2.7, `cb_en = 011`: no event. -/
theorem test_fin_no_callback :
    after (exec .polldFin { engineAt 34 [] with cfg := { keySchedule := ksSyn, cbEn := 0b011 } })
        (fun t => (t.cipher.step, t.rspCode, t.evFinished)) = some (0, 0b11, false) := by decide

/-- Section 2.4, last two rows. -/
theorem test_illegal_step :
    step (engineAt 35 [Inputs.pollE]) = .fault (.illegalStep 35) ∧
    step (engineAt 63 [Inputs.pollD]) = .fault (.illegalStep 63) := ⟨rfl, rfl⟩

/-- Section 2.8: reset in mid-block, with a command presented. -/
theorem test_reset_cycle :
    after (step (engineAt 20 [resetInputs])) (fun t => (t.cipher.step, t.outputs, t.cfg)) =
      some (0, Outputs.quiet, (engineAt 20 []).cfg) := by decide

/-- Section 3, P5, row 3: a decryption poll at step 2 reads key 30, whatever poll came before (R121). -/
theorem test_mixed_directions :
    after (step (engineAt 2 [Inputs.pollD])) (fun t => (t.cipher.step, t.rkIndexPort)) = some (3, 30) := by decide

/-- R63: a Configuration presented with the poll is the one the round reads. -/
theorem test_changed_configuration :
    after (step { engineAt 1 [{ Inputs.pollE with
          cfg := some { keySchedule := Vector.replicate 32 0xdeadbeefcafef00d, cbEn := 0 } }] with
        cipher := { step := 1, scratch0 := 0, scratch1 := 0, output := countingBlock } })
        (fun t => (t.cipher.scratch1, t.cipher.scratch0)) =
      some (0xdeadbeefcafef00d, 0xdeadbeefcafef00d) := by decide

/-- R89: the output ports' bit places, and the whole-word view of R82. -/
theorem test_ports :
    (engineAt 5 []).outBlock = 0x0f0e0d0c0b0a09080706050403020100 ∧
    (engineAt 5 []).dbgScratch = 0xfedcba98765432100123456789abcdef ∧
    (engineAt 5 []).busy = true ∧ State.reset.busy = false := by decide

/-! ## Witnesses: states and operands that meet the hypotheses of each statement -/

theorem witness_DecodeOfEncode :
    (Instr.startRej countingBlock).wellFormed .enc 34 = true ∧ Instr.polldIll.wellFormed .dec 35 = true := by decide

theorem witness_DecodedIsWellFormed_and_EncodeOfDecoded :
    decode .both 0 true 0x03c3834302c2824201c1814100c080401 = .ok (.startAcc countingBlock) ∧
    opOfWord 0x03c3834302c2824201c1814100c080401 = 0b01 := by decide

theorem witness_ReservedCommandsRefused :
    (variantAt .enc 3 [Inputs.pollD]).presented.rst = false ∧
    (variantAt .enc 3 [Inputs.pollD]).presented.cmdValid = true ∧
    (variantAt .enc 3 [Inputs.pollD]).presented.cmdOp = 0b11 ∧
    (variantAt .dec 0 [Inputs.pollE]).presented.cmdOp = 0b10 := by decide

theorem witness_PortBytes :
    after (step (engineAt 0 [Inputs.start countingBlock])) (fun t => t.outputs.event.isSome) = some true := by decide

theorem witness_StepRunsDecodedInstruction :
    (engineAt 32 [Inputs.pollE]).inputs = [Inputs.pollE] ∧ Inputs.pollE.rst = false ∧
    decode .both 32 Inputs.pollE.cmdValid (commandWord Inputs.pollE.cmdOp Inputs.pollE.cmdBlock) = .ok .encRound := by
  decide

theorem witness_NothingPresentedChangesNothing : (engineAt 17 []).inputs = [] := rfl

theorem witness_ResetCycle : (engineAt 20 [resetInputs]).presented.rst = true := rfl

theorem witness_FaultsExactlyOnIllegalPoll :
    ∃ f, step (variantAt .dec 35 [Inputs.pollD]) = .fault f := ⟨_, rfl⟩

theorem witness_LegalStep : (engineAt 34 [Inputs.pollE]).stepLegal ∧ (engineAt 34 []).variant = .both := by decide

/-- One state for each edge of the counter: reset, no command, 0 to 1, 1 to 2, 33 to 34, 34 to 0, and none. -/
theorem witness_steps_have_next_states :
    (∃ t, step (engineAt 20 [resetInputs]) = .next t) ∧ (∃ t, step (engineAt 20 [Inputs.quiet]) = .next t) ∧
    (∃ t, step (engineAt 0 [Inputs.start countingBlock]) = .next t) ∧
    (∃ t, step (engineAt 1 [Inputs.pollE]) = .next t) ∧ (∃ t, step (engineAt 33 [Inputs.pollD]) = .next t) ∧
    (∃ t, step (engineAt 34 [Inputs.pollE]) = .next t) ∧
    (∃ t, step (engineAt 63 [Inputs.start countingBlock]) = .next t) :=
  ⟨⟨_, rfl⟩, ⟨_, rfl⟩, ⟨_, rfl⟩, ⟨_, rfl⟩, ⟨_, rfl⟩, ⟨_, rfl⟩, ⟨_, rfl⟩⟩

/-- The fired events that `EventsFollowResponse` speaks of, one of each kind. -/
theorem witness_EventsFollowResponse :
    after (step (engineAt 0 [Inputs.start countingBlock])) State.evAccepted = some true ∧
    after (step (engineAt 1 [Inputs.start countingBlock])) State.evRejected = some true ∧
    after (step (engineAt 34 [Inputs.pollD])) State.evFinished = some true := by decide

/-- A cycle at another step; a `NOP` and a rejected `START` at step 33. -/
theorem witness_OutputPersists :
    (∃ t, step (engineAt 32 [Inputs.pollE]) = .next t) ∧ (engineAt 32 [Inputs.pollE]).presented.rst = false ∧
    (engineAt 32 [Inputs.pollE]).cipher.step.toNat ≠ 33 ∧
    (∃ t, step (engineAt 33 [Inputs.quiet]) = .next t) ∧ (engineAt 33 [Inputs.quiet]).presented.rst = false ∧
    ¬ (engineAt 33 [Inputs.quiet]).presented.isPoll ∧
    (∃ t, step (engineAt 33 [Inputs.start countingBlock]) = .next t) ∧
    (engineAt 33 [Inputs.start countingBlock]).presented.rst = false ∧
    ¬ (engineAt 33 [Inputs.start countingBlock]).presented.isPoll :=
  ⟨⟨_, rfl⟩, rfl, by decide, ⟨_, rfl⟩, rfl, by decide, ⟨_, rfl⟩, rfl, by decide⟩

theorem witness_InterleavedCommandsKeepTheBlock :
    (engineAt 34 [Inputs.start countingBlock]).presented.rst = false ∧
    (engineAt 34 [Inputs.start countingBlock]).presented.cmdOp = 0b01 ∧
    (engineAt 34 [Inputs.start countingBlock]).cipher.step ≠ 0 := by decide

/-- Every micro-operation that has a next state has one here (`WhoWritesWhat`, `ResponseCodes`, `KeyStorePort`,
`HandlerSeesOrderOfEffects`), and the hypotheses of the result statements hold in these states. -/
theorem witness_exec_has_next_states :
    (∃ t, exec .nop (engineAt 63 []) = .next t) ∧ (∃ t, exec (.startAcc countingBlock) (engineAt 0 []) = .next t) ∧
    (∃ t, exec (.startRej countingBlock) (engineAt 1 []) = .next t) ∧
    (∃ t, exec .polleIdle (engineAt 0 []) = .next t) ∧ (∃ t, exec .polldIdle (engineAt 0 []) = .next t) ∧
    (∃ t, exec .encRound (engineAt 32 []) = .next t) ∧ (∃ t, exec .decRound (engineAt 1 []) = .next t) ∧
    (∃ t, exec .polleNorm (engineAt 33 []) = .next t) ∧ (∃ t, exec .polldNorm (engineAt 33 []) = .next t) ∧
    (∃ t, exec .polleFin (engineAt 34 []) = .next t) ∧ (∃ t, exec .polldFin (engineAt 34 []) = .next t) :=
  ⟨⟨_, rfl⟩, ⟨_, rfl⟩, ⟨_, rfl⟩, ⟨_, rfl⟩, ⟨_, rfl⟩, ⟨_, rfl⟩, ⟨_, rfl⟩, ⟨_, rfl⟩, ⟨_, rfl⟩, ⟨_, rfl⟩, ⟨_, rfl⟩⟩

theorem witness_HandlerSeesOrderOfEffects :
    after (exec (.startAcc countingBlock) (engineAt 0 [])) (fun t => t.outputs.event.map Event.kind) =
      some (some .accepted) ∧
    after (exec (.startRej countingBlock) (engineAt 34 [])) (fun t => t.outputs.event.map Event.kind) =
      some (some .rejected) ∧
    after (exec .polldFin (engineAt 34 [])) (fun t => t.outputs.event.map Event.kind) =
      some (some .finished) := by decide

theorem witness_OutOfRangeIsRefused :
    Instr.encRound.selectedAt (engineAt 33 []).cipher.step = false ∧
    Instr.polleIll.selectedAt (engineAt 34 []).cipher.step = false := by decide

theorem witness_StartAccepted_and_IdlePoll : (engineAt 0 []).cipher.step = 0 := rfl

theorem witness_StartRejected : (engineAt 63 []).cipher.step ≠ 0 := by decide

/-- The two ends of each round's range. -/
theorem witness_rounds :
    (engineAt 1 []).cipher.step.toNat = (0 : Fin 32).val + 1 ∧
    (engineAt 32 []).cipher.step.toNat = (31 : Fin 32).val + 1 ∧
    (engineAt 32 []).cipher.step.toNat = 32 - (0 : Fin 32).val ∧
    (engineAt 1 []).cipher.step.toNat = 32 - (31 : Fin 32).val := by decide

theorem witness_NormalizationTick_and_CompletionTick :
    (engineAt 33 []).cipher.step = 33 ∧ (engineAt 34 []).cipher.step = 34 := ⟨rfl, rfl⟩

theorem witness_IllegalPollFaults : 35 ≤ (engineAt 35 []).cipher.step.toNat := by decide

theorem witness_RotationsAreCircular : 0 < Config.beta ∧ Config.alpha < 64 := by decide

theorem witness_RoundKeyIndices : 1 ≤ (1 : StepCount).toNat ∧ (32 : StepCount).toNat ≤ 32 := by decide

/-- 34 polls of both kinds, for an engine that has both. -/
def mixedPolls : List Inputs := List.replicate 17 Inputs.pollE ++ List.replicate 17 Inputs.pollD

/-- The polls of each variant: those of its own kind, for an engine of both polls a mixture. -/
theorem witness_polls :
    mixedPolls.length = 34 ∧ (∀ c ∈ mixedPolls, c.isPollOf .both ∧ c.cfg = none) ∧
    (∀ c ∈ List.replicate 34 Inputs.pollE, c.isPollOf .enc ∧ c.isPollOf .both ∧ c.cfg = none) ∧
    (∀ c ∈ List.replicate 34 Inputs.pollD, c.isPollOf .dec ∧ c.isPollOf .both ∧ c.cfg = none) := by decide

/-- With `witness_polls`, the hypotheses of `ThirtyFourPolls` for each variant. -/
theorem witness_ThirtyFourPolls :
    ((variantAt .both 1 (mixedPolls ++ [])).cipher.step = 1 ∧ (variantAt .both 1 []).variant = .both ∧
      (variantAt .both 1 (mixedPolls ++ [])).inputs = mixedPolls ++ []) ∧
    ((variantAt .enc 1 (List.replicate 34 Inputs.pollE ++ [])).cipher.step = 1 ∧
      (variantAt .enc 1 []).variant = .enc) ∧
    ((variantAt .dec 1 (List.replicate 34 Inputs.pollD ++ [])).cipher.step = 1 ∧
      (variantAt .dec 1 []).variant = .dec) := ⟨⟨rfl, rfl, rfl⟩, ⟨rfl, rfl⟩, ⟨rfl, rfl⟩⟩

/-- All hypotheses of `CompletesExactlyOnce` together, on an engine with `variant = both` and a mixture of polls; an
idle engine of the same Configuration that holds something else makes them those of `HistoryDoesNotMatter`. -/
theorem witness_block_cycle_both :
    ∃ (s d : State) (blk : Block) (ps rest : List Inputs), s.variant = .both ∧ d.variant = .both ∧
      s.cipher.step = 0 ∧ d.cipher.step = 0 ∧ s.cfg = d.cfg ∧ s.cipher ≠ d.cipher ∧
      s.inputs = Inputs.start blk :: (ps ++ rest) ∧ d.inputs = Inputs.start blk :: (ps ++ rest) ∧ ps.length = 34 ∧
      ∀ c ∈ ps, c.isPollOf s.variant ∧ c.isPollOf d.variant ∧ c.cfg = none :=
  ⟨engineAt 0 (Inputs.start countingBlock :: (mixedPolls ++ [])),
    { engineAt 0 (Inputs.start countingBlock :: (mixedPolls ++ [])) with cipher := State.reset.cipher },
    countingBlock, mixedPolls, [], rfl, rfl, rfl, rfl, rfl, by decide, rfl, rfl, rfl,
    fun c hc => ⟨(witness_polls.2.1 c hc).1, witness_polls.2.1 c hc⟩⟩

/-- The same on engines of different variants: one that has the encryption poll only, one that has both. -/
theorem witness_block_cycle_single_direction :
    ∃ (s d : State) (blk : Block) (ps rest : List Inputs), s.variant = .enc ∧ d.variant = .both ∧
      s.cipher.step = 0 ∧ d.cipher.step = 0 ∧ s.cfg = d.cfg ∧
      s.inputs = Inputs.start blk :: (ps ++ rest) ∧ d.inputs = Inputs.start blk :: (ps ++ rest) ∧ ps.length = 34 ∧
      ∀ c ∈ ps, c.isPollOf s.variant ∧ c.isPollOf d.variant ∧ c.cfg = none :=
  ⟨variantAt .enc 0 (encryptCommands countingBlock ++ []), variantAt .both 0 (encryptCommands countingBlock ++ []),
    countingBlock, List.replicate 34 Inputs.pollE, [], rfl, rfl, rfl, rfl, rfl, rfl, rfl, rfl,
    witness_polls.2.2.1⟩

/-- The hypotheses of the block cycles: idle engines that have the poll, with the commands in front of them. -/
theorem witness_block_cycles :
    (variantAt .enc 0 (encryptCommands countingBlock ++ [])).cipher.step = 0 ∧
    (variantAt .enc 0 []).variant.hasPollE ∧ (variantAt .dec 0 []).variant.hasPollD ∧
    (variantAt .enc 0 (encryptCommands countingBlock ++ [])).inputs =
      Inputs.start countingBlock :: (List.replicate 34 Inputs.pollE ++ []) ∧
    (variantAt .dec 0 (decryptCommands countingBlock ++ [])).inputs =
      Inputs.start countingBlock :: (List.replicate 34 Inputs.pollD ++ []) ∧
    (engineAt 0 []).cfg.keySchedule = (variantAt .dec 0 []).cfg.keySchedule := ⟨rfl, by decide, by decide, rfl, rfl, rfl⟩

end Sys2Proof.Tests
end

section
/-!
SUPPORT. The proofs of the family 00_scope: the pure functions on words (R7, R8) and what one cycle runs
(R14, R110, R196).
-/

namespace Sys2Proof.Machine

/-! ## Arithmetic (R7) -/

theorem toNat_add64 (a b : Word) : (add64 a b).toNat = (a.toNat + b.toNat) % 2 ^ 64 :=
  BitVec.toNat_add a b

theorem toNat_sub64 (a b : Word) : (sub64 a b).toNat = (2 ^ 64 + a.toNat - b.toNat) % 2 ^ 64 := by
  have hb := b.isLt
  have hdiff : 2 ^ 64 - b.toNat + a.toNat = 2 ^ 64 + a.toNat - b.toNat := by omega
  rw [sub64, BitVec.toNat_sub, hdiff]

@[simp] theorem sub64_add64_cancel (a b : Word) : sub64 (add64 a b) b = a :=
  BitVec.add_sub_cancel a b

/-- Settles O36: each operation as a natural number, and their cancellation. -/
theorem arithmeticWraps : Obligations.ArithmeticWraps := fun a b =>
  ⟨toNat_add64 a b, toNat_sub64 a b, sub64_add64_cancel a b⟩

/-! ## Rotations (R8) -/

/-- Below the distance a rotated bit comes from the shifted-out top, at or above it from `n` places down: one
index modulo 64 says both. -/
theorem getLsbD_rotl64_mod {v : Word} {n i : Nat} (hn : n ≤ 64) (hi : i < 64) :
    (rotl64 v n).getLsbD i = v.getLsbD ((i + 64 - n) % 64) := by
  rw [getLsbD_rotl64]
  by_cases hlow : i < n
  · have hidx : (i + 64 - n) % 64 = 64 - n + i := by omega
    simp [hlow, hidx]
  · have hidx : (i + 64 - n) % 64 = i - n := by omega
    have hout : v.getLsbD (64 - n + i) = false := BitVec.getLsbD_of_ge v _ (by omega)
    simp [hlow, hi, hidx, hout]

/-- The mirror image: the top `n` bits come from the shifted-out bottom. -/
theorem getLsbD_rotr64_mod {v : Word} {n i : Nat} (hn : n ≤ 64) (hi : i < 64) :
    (rotr64 v n).getLsbD i = v.getLsbD ((i + n) % 64) := by
  rw [getLsbD_rotr64]
  by_cases hlow : i < 64 - n
  · have hidx : (i + n) % 64 = n + i := by omega
    simp [hlow, hidx]
  · have hidx : (i + n) % 64 = i - (64 - n) := by omega
    have hout : v.getLsbD (n + i) = false := BitVec.getLsbD_of_ge v _ (by omega)
    simp [hlow, hi, hidx, hout]

theorem rotl64_rotr64 {v : Word} {n : Nat} (hn : n ≤ 64) : rotl64 (rotr64 v n) n = v := by
  apply BitVec.eq_of_getLsbD_eq
  intro i hi
  have hback : ((i + 64 - n) % 64 + n) % 64 = i := by omega
  rw [getLsbD_rotl64_mod hn hi, getLsbD_rotr64_mod hn (Nat.mod_lt _ (by decide)), hback]

theorem rotr64_rotl64 {v : Word} {n : Nat} (hn : n ≤ 64) : rotr64 (rotl64 v n) n = v := by
  apply BitVec.eq_of_getLsbD_eq
  intro i hi
  have hback : ((i + n) % 64 + 64 - n) % 64 = i := by omega
  rw [getLsbD_rotr64_mod hn hi, getLsbD_rotl64_mod hn (Nat.mod_lt _ (by decide)), hback]

/-- Settles O37: the index of each rotated bit modulo 64; the two index maps undo each other. -/
theorem rotationsAreCircular : Obligations.RotationsAreCircular := fun _ _ _ hn =>
  ⟨fun _ hi => getLsbD_rotl64_mod hn.le hi, fun _ hi => getLsbD_rotr64_mod hn.le hi,
    rotl64_rotr64 hn.le, rotr64_rotl64 hn.le⟩

/-! ## One cycle (R14, R110, R196) -/

theorem sample_of_nil {s : State} (h : s.inputs = []) : s.sample = { s with draw := s.draw + 1 } := by
  simp [State.sample, presented_nil h, Inputs.quiet, h]

theorem sample_of_cons {s : State} {c : Inputs} {rest : List Inputs} (h : s.inputs = c :: rest) :
    s.sample = { s with inputs := rest, cfg := c.cfg.getD s.cfg, draw := s.draw + 1 } := by
  simp [State.sample, presented_cons h, h]

/-- A command that is not presented is `NOP`, whatever the ports hold (R81, R110). -/
theorem decodeCommand_absent {c : Inputs} {s : State} (h : c.cmdValid = false) :
    s.decodeCommand c = .ok .nop := by
  simp [State.decodeCommand, decode, h]

/-- Settles O8: the head of the list is the command presented, so `step_of_decode` runs it on the sampled state. -/
theorem stepRunsDecodedInstruction : Obligations.StepRunsDecodedInstruction := by
  intro s c rest i hin hrst hdec
  have hp : s.presented = c := presented_cons hin
  have hd : s.sample.decodeCommand s.presented = .ok i := by rw [hp]; exact hdec
  rw [step_of_decode (hp ▸ hrst) hd, sample_of_cons hin]

/-- Settles O9: the quiet ports decode to `NOP`, which leaves the sampled state quiet. -/
theorem nothingPresentedChangesNothing : Obligations.NothingPresentedChangesNothing := by
  intro s hin
  have hp : s.presented = Inputs.quiet := presented_nil hin
  have hd : s.sample.decodeCommand s.presented = .ok .nop := by rw [hp]; exact decodeCommand_absent rfl
  have hrst : s.presented.rst = false := by rw [hp]; rfl
  calc step s = exec .nop s.sample := step_of_decode hrst hd
    _ = .next s.sample.quiet := rfl
    _ = .next { s with outputs := Outputs.quiet, draw := s.draw + 1 } := by rw [sample_of_nil hin]; rfl

end Sys2Proof.Machine
end

section
/-!
SUPPORT. The proofs of the family 10_state: what each micro-operation and each cycle may write (R20 to R24), the
step invariant (R29), the derived ports (R28, R169), and that a block cycle forgets what the engine held (R31, R182).
-/

namespace Sys2Proof.Machine

/-! ## What a micro-operation writes (R20 to R24) -/

/-- No micro-operation writes anything but the Cipher State and the outputs. -/
theorem exec_keeps_environment {i : Instr} {s t : State} (h : exec i s = .next t) :
    t.cfg = s.cfg ∧ t.variant = s.variant ∧ t.inputs = s.inputs ∧ t.draw = s.draw := by
  rcases exec_next_cases h with ⟨-, rfl⟩ | ⟨b, -, -, rfl⟩ | ⟨b, -, -, rfl⟩ | ⟨-, -, rfl⟩ | ⟨-, -, rfl⟩ |
    ⟨-, -, rfl⟩ | ⟨-, -, rfl⟩ | ⟨-, -, rfl⟩ <;> simp

/-- The column 'written by' of the state table, read by micro-operations: a round writes the words and the step,
an accepted `START` too, a normalization the output and the step, a completion the step, every other nothing. -/
theorem exec_cipher_cases {i : Instr} {s t : State} (h : exec i s = .next t) :
    t.cipher = s.cipher ∨
    (∃ b, i = .startAcc b ∧
      t.cipher = { s.cipher with step := 1, scratch0 := lowWordOfBlock b, scratch1 := highWordOfBlock b }) ∨
    ((i = .encRound ∨ i = .decRound) ∧ s.cipher.step.toNat ≤ 32 ∧ ∃ x y,
      t.cipher = { s.cipher with step := s.cipher.step + 1, scratch0 := y, scratch1 := x }) ∨
    ((i = .polleNorm ∨ i = .polldNorm) ∧
      t.cipher =
        { s.cipher with step := 34, output := blockOfWords s.cipher.scratch0 s.cipher.scratch1 }) ∨
    ((i = .polleFin ∨ i = .polldFin) ∧ t.cipher = { s.cipher with step := 0 }) := by
  rcases exec_next_cases h with ⟨-, rfl⟩ | ⟨b, hi, -, rfl⟩ | ⟨b, -, -, rfl⟩ | ⟨-, -, rfl⟩ | ⟨hi, hin, rfl⟩ |
    ⟨hi, hin, rfl⟩ | ⟨hi, -, rfl⟩ | ⟨hi, -, rfl⟩
  · exact .inl rfl
  · exact .inr (.inl ⟨b, hi, rfl⟩)
  · exact .inl rfl
  · exact .inl rfl
  · exact .inr (.inr (.inl ⟨.inl hi, hin.2, _, _, rfl⟩))
  · exact .inr (.inr (.inl ⟨.inr hi, hin.2, _, _, rfl⟩))
  · exact .inr (.inr (.inr (.inl ⟨hi, rfl⟩)))
  · exact .inr (.inr (.inr (.inr ⟨hi, rfl⟩)))

/-- R22: the scratch words are written by an accepted `START` and the rounds alone. -/
theorem exec_keeps_scratch {i : Instr} {s t : State} (h : exec i s = .next t) (henc : i ≠ .encRound)
    (hdec : i ≠ .decRound) (hacc : ∀ b, i ≠ .startAcc b) :
    t.cipher.scratch0 = s.cipher.scratch0 ∧ t.cipher.scratch1 = s.cipher.scratch1 := by
  rcases exec_cipher_cases h with ht | ⟨b, hi, -⟩ | ⟨hi, -⟩ | ⟨-, ht⟩ | ⟨-, ht⟩
  · simp [ht]
  · exact absurd hi (hacc b)
  · exact absurd hi (not_or.mpr ⟨henc, hdec⟩)
  · simp [ht]
  · simp [ht]

/-- R23: the output buffer is written by the normalization ticks alone. -/
theorem exec_keeps_output {i : Instr} {s t : State} (h : exec i s = .next t) (hE : i ≠ .polleNorm)
    (hD : i ≠ .polldNorm) : t.cipher.output = s.cipher.output := by
  rcases exec_cipher_cases h with ht | ⟨b, -, ht⟩ | ⟨-, -, x, y, ht⟩ | ⟨hi, -⟩ | ⟨-, ht⟩
  · simp [ht]
  · simp [ht]
  · simp [ht]
  · exact absurd hi (not_or.mpr ⟨hE, hD⟩)
  · simp [ht]

/-- R101, R110, R111: `NOP`, a rejected `START` and an idle poll write nothing of the Cipher State. -/
theorem exec_keeps_cipher {i : Instr} {s t : State} (h : exec i s = .next t)
    (hi : i = .nop ∨ i = .polleIdle ∨ i = .polldIdle ∨ ∃ b, i = .startRej b) : t.cipher = s.cipher := by
  rcases exec_cipher_cases h with ht | ⟨b, rfl, -⟩ | ⟨rfl | rfl, -⟩ | ⟨rfl | rfl, -⟩ | ⟨rfl | rfl, -⟩
  case inl => exact ht
  all_goals simp at hi

/-- Settles O22: one column of the state table each. -/
theorem whoWritesWhat : Obligations.WhoWritesWhat := fun _ _ _ h =>
  ⟨exec_keeps_environment h, exec_keeps_scratch h, exec_keeps_output h, exec_keeps_cipher h⟩

/-! ## What a cycle does to the caller's inputs (R24, R63, R181) -/

/-- Settles O19: sampling takes the Configuration and the record; neither reset nor a micro-operation touches them. -/
theorem configurationIsTheCallers : Obligations.ConfigurationIsTheCallers := by
  intro s t h
  rcases step_next_cases h with ⟨-, rfl⟩ | ⟨-, i, -, hexec⟩
  · simp
  · obtain ⟨hcfg, hvariant, hinputs, -⟩ := exec_keeps_environment hexec
    exact ⟨hcfg, hvariant, hinputs⟩

/-! ## The step invariant (R29) -/

theorem toNat_step_add_one {st : StepCount} (h : st.toNat < 63) : (st + 1).toNat = st.toNat + 1 := by
  have hlt : st.toNat + (1 : StepCount).toNat < 2 ^ 6 := by simp; omega
  exact BitVec.toNat_add_of_lt hlt

/-- Every written value of `step` is in 0..34: a round starts at 32 at most, and the rest write constants. -/
theorem exec_keeps_stepLegal {i : Instr} {s t : State} (hs : s.stepLegal) (h : exec i s = .next t) :
    t.stepLegal := by
  unfold State.stepLegal at hs ⊢
  rcases exec_cipher_cases h with ht | ⟨b, -, ht⟩ | ⟨-, hle, x, y, ht⟩ | ⟨-, ht⟩ | ⟨-, ht⟩
  · rwa [ht]
  · simp [ht]
  · have hsucc : (s.cipher.step + 1).toNat = s.cipher.step.toNat + 1 := toNat_step_add_one (by omega)
    rw [ht, hsucc]
    exact (Nat.succ_le_succ hle).trans (by decide)
  · simp [ht]
  · simp [ht]

/-- Settles O15: a reset cycle writes 0, and every micro-operation keeps the invariant. -/
theorem stepLegalKept : Obligations.StepLegalKept := by
  intro s t hs h
  rcases step_next_cases h with ⟨-, rfl⟩ | ⟨-, i, -, hexec⟩
  · exact Nat.zero_le _
  · exact exec_keeps_stepLegal (s := s.sample) hs hexec

/-- Settles O16: the step after reset is 0. -/
theorem resetIsStepLegal : Obligations.ResetIsStepLegal := Nat.zero_le _

/-! ## Reset and the derived ports (R28, R33, R89, R169) -/

theorem busy_iff (s : State) : s.busy = true ↔ s.cipher.step ≠ 0 := bne_iff_ne

/-- Settles O11: every clause is a field of the fixed reset state. -/
theorem resetState : Obligations.ResetState := ⟨rfl, rfl, rfl, rfl, rfl⟩

/-- Settles O43: `busy` is the test of the step, and the two halves of the debug port are the scratch words. -/
theorem statusPorts : Obligations.StatusPorts := fun s =>
  ⟨busy_iff s, BitVec.extractLsb'_append_eq_right, BitVec.extractLsb'_append_eq_left⟩

/-! ## One poll of an engine that has it (R83, R112 to R114) -/

/-- What a poll of the code `op` selects: an encryption poll is the code 10, a decryption poll the other. -/
def selectPoll (op : OpCode) (st : StepCount) : Instr :=
  if op = 0b10 then selectPollE st else selectPollD st

/-- The round-key index of a round poll (R130, R140). -/
def pollKeyIndex (op : OpCode) (st : StepCount) : KeyIndex :=
  if op = 0b10 then encKeyIndex st else decKeyIndex st

/-- The pair of words `(x, y)` after a round poll at step `st` (R131, R141). -/
def pollRoundWords (ks : KeySchedule) (op : OpCode) (st : StepCount) (p : Word × Word) : Word × Word :=
  let k := ks[(pollKeyIndex op st).toNat]'(pollKeyIndex op st).isLt
  if op = 0b10 then encRoundWords k p.1 p.2 else decRoundWords k p.1 p.2

/-- The scratch words as the pair `(x, y)` of the rules. -/
def CipherState.words (c : CipherState) : Word × Word := (c.scratch1, c.scratch0)

theorem step_of_poll {s : State} (h : s.presented.isPollOf s.variant) :
    step s = exec (selectPoll s.presented.cmdOp s.cipher.step) s.sample := by
  obtain ⟨⟨hrst, hvalid, hop⟩, hE, hD⟩ := h
  apply step_of_decode hrst
  rcases hop with hop | hop
  · simp [State.decodeCommand, decode, selectPoll, hvalid, hop, hE hop]
  · simp [State.decodeCommand, decode, selectPoll, hvalid, hop, hD hop]

theorem exec_selectPoll_round {s : State} (op : OpCode)
    (h : 1 ≤ s.cipher.step.toNat ∧ s.cipher.step.toNat ≤ 32) :
    exec (selectPoll op s.cipher.step) s =
      .next (roundTick (pollKeyIndex op s.cipher.step)
        (pollRoundWords s.cfg.keySchedule op s.cipher.step s.cipher.words) s) := by
  by_cases hop : op = 0b10
  · simp only [selectPoll, pollKeyIndex, pollRoundWords, if_pos hop, selectPollE_round h.1 h.2]
    exact requireStep_in h
  · simp only [selectPoll, pollKeyIndex, pollRoundWords, if_neg hop, selectPollD_round h.1 h.2]
    exact requireStep_in h

theorem exec_selectPoll_norm {s : State} (op : OpCode) (h : s.cipher.step = 33) :
    exec (selectPoll op s.cipher.step) s = .next (normTick s) := by
  have hin : 33 ≤ s.cipher.step.toNat ∧ s.cipher.step.toNat ≤ 33 := by simp [h]
  rw [selectPoll, h]
  split <;> exact requireStep_in hin

theorem exec_selectPoll_fin {s : State} (op : OpCode) (h : s.cipher.step = 34) :
    exec (selectPoll op s.cipher.step) s = .next (finTick s) := by
  have hin : 34 ≤ s.cipher.step.toNat ∧ s.cipher.step.toNat ≤ 34 := by simp [h]
  rw [selectPoll, h]
  split <;> exact requireStep_in hin

theorem step_of_poll_round {s : State} (h : s.presented.isPollOf s.variant)
    (hst : 1 ≤ s.cipher.step.toNat ∧ s.cipher.step.toNat ≤ 32) :
    step s = .next (roundTick (pollKeyIndex s.presented.cmdOp s.cipher.step)
      (pollRoundWords s.sample.cfg.keySchedule s.presented.cmdOp s.cipher.step s.cipher.words) s.sample) :=
  (step_of_poll h).trans (exec_selectPoll_round (s := s.sample) _ hst)

theorem step_of_poll_norm {s : State} (h : s.presented.isPollOf s.variant) (hst : s.cipher.step = 33) :
    step s = .next (normTick s.sample) :=
  (step_of_poll h).trans (exec_selectPoll_norm (s := s.sample) _ hst)

theorem step_of_poll_fin {s : State} (h : s.presented.isPollOf s.variant) (hst : s.cipher.step = 34) :
    step s = .next (finTick s.sample) :=
  (step_of_poll h).trans (exec_selectPoll_fin (s := s.sample) _ hst)

/-! ## A block cycle as a function of the Configuration, the block and the polls (R31, R120, R182) -/

/-- The caller's next cycles are the polls `ps`, which the engine has and which carry no change of the
Configuration, and then `rest`. -/
structure State.Awaits (s : State) (ps rest : List Inputs) : Prop where
  inputs : s.inputs = ps ++ rest
  polls : ∀ c ∈ ps, c.isPollOf s.variant ∧ c.cfg = none

theorem State.Awaits.presented {s : State} {c : Inputs} {ps rest : List Inputs} (h : s.Awaits (c :: ps) rest) :
    s.presented = c := presented_cons h.inputs

theorem State.Awaits.isPollOf {s : State} {c : Inputs} {ps rest : List Inputs} (h : s.Awaits (c :: ps) rest) :
    s.presented.isPollOf s.variant := by
  rw [h.presented]; exact (h.polls c List.mem_cons_self).1

theorem State.Awaits.sample_cfg {s : State} {c : Inputs} {ps rest : List Inputs} (h : s.Awaits (c :: ps) rest) :
    s.sample.cfg = s.cfg := by
  simp [h.presented, (h.polls c List.mem_cons_self).2]

/-- A cycle takes the first poll and keeps the Configuration. -/
theorem State.Awaits.step {s t : State} {c : Inputs} {ps rest : List Inputs} (h : s.Awaits (c :: ps) rest)
    (hstep : step s = .next t) : t.Awaits ps rest ∧ t.cfg = s.cfg := by
  obtain ⟨hcfg, hvariant, hinputs⟩ := configurationIsTheCallers s t hstep
  refine ⟨⟨by simp [hinputs, h.inputs], fun d hd => ?_⟩, hcfg.trans h.sample_cfg⟩
  rw [hvariant]; exact h.polls d (List.mem_cons_of_mem c hd)

/-- The pair of words after round polls of the codes `ops`, the first at step `st`. -/
def roundsWords (ks : KeySchedule) : StepCount → List OpCode → Word × Word → Word × Word
  | _, [], p => p
  | st, op :: ops, p => roundsWords ks (st + 1) ops (pollRoundWords ks op st p)

/-- Round polls that do not go past step 33 carry out `roundsWords`. -/
theorem runs_rounds {qs rest : List Inputs} : ∀ (ps : List Inputs) {s : State}, s.Awaits (ps ++ qs) rest →
    1 ≤ s.cipher.step.toNat → s.cipher.step.toNat + ps.length ≤ 33 →
    ∃ t, runs ps.length s = .next t ∧ t.Awaits qs rest ∧ t.cfg = s.cfg ∧
      t.cipher.step.toNat = s.cipher.step.toNat + ps.length ∧
      t.cipher.words =
        roundsWords s.cfg.keySchedule s.cipher.step (ps.map Inputs.cmdOp) s.cipher.words := by
  intro ps
  induction ps with
  | nil => exact fun h _ _ => ⟨_, rfl, h, rfl, rfl, rfl⟩
  | cons c ps ih =>
    intro s h hlo hhi
    rw [List.length_cons] at hhi
    have hstep := step_of_poll_round h.isPollOf ⟨hlo, by omega⟩
    rw [h.sample_cfg, h.presented] at hstep
    obtain ⟨hnext, hcfg⟩ := h.step hstep
    have hsucc : (s.cipher.step + 1).toNat = s.cipher.step.toNat + 1 := toNat_step_add_one (by omega)
    obtain ⟨t, hrun, hawaits, htcfg, htstep, htwords⟩ := ih hnext
      (show 1 ≤ (s.cipher.step + 1).toNat by omega) (show (s.cipher.step + 1).toNat + ps.length ≤ 33 by omega)
    rw [hcfg] at htcfg htwords
    refine ⟨t, (runs_succ _ hstep).trans hrun, hawaits, htcfg, ?_, htwords⟩
    rw [htstep, roundTick_cipher, sample_cipher, hsucc, List.length_cons, Nat.add_right_comm, Nat.add_assoc]

/-- The Cipher State of a completed block with the words `p` (R113, R114). -/
def finishedCipher (p : Word × Word) : CipherState :=
  { step := 0, scratch0 := p.2, scratch1 := p.1, output := blockOfWords p.2 p.1 }

/-- The last two polls serialise the words and return to idle. -/
theorem runs_norm_fin {s : State} {a b : Inputs} {rest : List Inputs} (h : s.Awaits [a, b] rest)
    (hst : s.cipher.step = 33) :
    ∃ t, runs 2 s = .next t ∧ t.Awaits [] rest ∧ t.cfg = s.cfg ∧ t.cipher = finishedCipher s.cipher.words := by
  have hnorm := step_of_poll_norm h.isPollOf hst
  obtain ⟨hnext, hcfg⟩ := h.step hnorm
  have hfin := step_of_poll_fin hnext.isPollOf rfl
  obtain ⟨hdone, hcfg'⟩ := hnext.step hfin
  exact ⟨_, (runs_succ 1 hnorm).trans (runs_succ 0 hfin), hdone, hcfg'.trans hcfg, rfl⟩

/-- The 34 polls of a block: 32 rounds, normalization, completion. -/
theorem runs_polls {s : State} {ps rest : List Inputs} (h : s.Awaits ps rest) (hlen : ps.length = 34)
    (hst : s.cipher.step = 1) :
    ∃ t, runs 34 s = .next t ∧ t.Awaits [] rest ∧ t.cfg = s.cfg ∧
      t.cipher =
        finishedCipher (roundsWords s.cfg.keySchedule 1 ((ps.take 32).map Inputs.cmdOp) s.cipher.words) := by
  obtain ⟨a, b, hlast⟩ : ∃ a b, ps.drop 32 = [a, b] := List.length_eq_two.mp (by simp [hlen])
  have h32 : (ps.take 32).length = 32 := by simp [hlen]
  have hst1 : s.cipher.step.toNat = 1 := by rw [hst]; rfl
  rw [← List.take_append_drop 32 ps, hlast] at h
  obtain ⟨u, hrounds, hawaits, hucfg, hustep, huwords⟩ := runs_rounds (ps.take 32) h hst1.ge (by omega)
  rw [h32] at hrounds hustep
  rw [hst] at huwords
  have hu33 : u.cipher.step = 33 := BitVec.eq_of_toNat_eq (by rw [hustep, hst1]; rfl)
  obtain ⟨t, hend, hdone, htcfg, htcipher⟩ := runs_norm_fin hawaits hu33
  exact ⟨t, (runs_add 2 hrounds).trans hend, hdone, htcfg.trans hucfg, huwords ▸ htcipher⟩

theorem exec_startAcc_idle {s : State} (blk : Block) (h : s.cipher.step = 0) :
    ∃ t, exec (.startAcc blk) s = .next t ∧
      t.cipher =
        { s.cipher with step := 1, scratch0 := lowWordOfBlock blk, scratch1 := highWordOfBlock blk } :=
  ⟨_, requireStep_in (by simp [h]), rfl⟩

/-- A `START` of an idle engine runs `START.ACC` with the block on the port (R82, R83). -/
theorem step_of_start {s : State} (hrst : s.presented.rst = false) (hvalid : s.presented.cmdValid = true)
    (hop : s.presented.cmdOp = 0b01) (hidle : s.cipher.step = 0) :
    step s = exec (.startAcc (blockOfPort s.presented.cmdBlock)) s.sample := by
  apply step_of_decode hrst
  rw [← selectStart_idle, ← hidle]
  simp [State.decodeCommand, decode, hvalid, hop]

/-- R120, R199: a whole block cycle of an idle engine: its result is a function of the schedule, the block and the
polls, so nothing of it is from what the engine held before. -/
theorem runs_blockCycle {s : State} {blk : Block} {ps rest : List Inputs} (hidle : s.cipher.step = 0)
    (hin : s.inputs = Inputs.start blk :: (ps ++ rest)) (hlen : ps.length = 34)
    (hps : ∀ c ∈ ps, c.isPollOf s.variant ∧ c.cfg = none) :
    ∃ t, runs 35 s = .next t ∧ t.Awaits [] rest ∧ t.cfg = s.cfg ∧
      t.cipher =
        finishedCipher (roundsWords s.cfg.keySchedule 1 ((ps.take 32).map Inputs.cmdOp)
          (highWordOfBlock (blockOfPort (portOfBlock blk)), lowWordOfBlock (blockOfPort (portOfBlock blk)))) := by
  have hp : s.presented = Inputs.start blk := presented_cons hin
  have hstep := step_of_start (s := s) (by rw [hp]; rfl) (by rw [hp]; rfl) (by rw [hp]; rfl) hidle
  obtain ⟨u, hexec, hu⟩ :=
    exec_startAcc_idle (s := s.sample) (blockOfPort s.presented.cmdBlock) hidle
  have hstart : step s = .next u := hstep.trans hexec
  obtain ⟨hcfg, hvariant, hinputs⟩ := configurationIsTheCallers s u hstart
  have hucfg : u.cfg = s.cfg := by rw [hcfg, hp]; rfl
  have hawaits : u.Awaits ps rest := ⟨by rw [hinputs, hin]; rfl, by rwa [hvariant]⟩
  obtain ⟨t, hrun, hdone, htcfg, htcipher⟩ := runs_polls hawaits hlen (by rw [hu])
  refine ⟨t, (runs_succ 34 hstart).trans hrun, hdone, htcfg.trans hucfg, ?_⟩
  rw [htcipher, hucfg, hu, hp]
  rfl

/-- Settles O49: `runs_blockCycle` gives both runs the same result. -/
theorem historyDoesNotMatter : Obligations.HistoryDoesNotMatter := by
  intro s d blk ps rest more hs hd hcfg hsin hdin hlen hps
  obtain ⟨t, hrunt, -, -, htcipher⟩ := runs_blockCycle hs hsin hlen fun c hc => ⟨(hps c hc).1, (hps c hc).2.2⟩
  obtain ⟨u, hrunu, -, -, hucipher⟩ := runs_blockCycle hd hdin hlen fun c hc => (hps c hc).2
  exact ⟨t, u, hrunt, hrunu, by rw [htcipher, hucipher, hcfg]⟩

end Sys2Proof.Machine
end

section
/-!
SUPPORT. The proofs of the family 20_memory: blocks as words and words as blocks (R52 to R54, R82), the round-key
indices (R57, R130, R140) and the key-store port (R65).
-/

namespace Sys2Proof.Machine

/-! ## Serialising (R53) -/

theorem getElem_blockOfWords_low (w0 w1 : Word) (i : Fin 8) :
    (blockOfWords w0 w1)[i.val] = byteOfWord w0 i.val := by
  fin_cases i <;> rfl

theorem getElem_blockOfWords_high (w0 w1 : Word) (i : Fin 8) :
    (blockOfWords w0 w1)[8 + i.val] = byteOfWord w1 i.val := by
  fin_cases i <;> rfl

/-- Settles O39: the two halves of the block, each byte named by `byteOfWord`. -/
theorem serialisedBytes : Obligations.SerialisedBytes := fun w0 w1 i =>
  ⟨getElem_blockOfWords_low w0 w1 i, getElem_blockOfWords_high w0 w1 i⟩

/-! ## Ingesting (R10, R52) -/

/-- The word of eight bytes, each byte given by its place: `le64` as a function on families. -/
def wordOfBytes (f : Fin 8 → Byte) : Word := le64 (f 0) (f 1) (f 2) (f 3) (f 4) (f 5) (f 6) (f 7)

theorem lowWordOfBlock_eq (b : Block) : lowWordOfBlock b = wordOfBytes fun i => b[i.val] := rfl

theorem highWordOfBlock_eq (b : Block) : highWordOfBlock b = wordOfBytes fun i => b[8 + i.val] := rfl

/-- Horner's form of the number, the form in which `omega` takes its bytes out. -/
theorem toNat_wordOfBytes (f : Fin 8 → Byte) :
    (wordOfBytes f).toNat =
      (((((((f 7).toNat * 2 ^ 8 + (f 6).toNat) * 2 ^ 8 + (f 5).toNat) * 2 ^ 8 + (f 4).toNat) * 2 ^ 8 +
        (f 3).toNat) * 2 ^ 8 + (f 2).toNat) * 2 ^ 8 + (f 1).toNat) * 2 ^ 8 + (f 0).toNat := by
  simp only [wordOfBytes, le64, toNat_append]

theorem toNat_wordOfBytes_eq_sum (f : Fin 8 → Byte) :
    (wordOfBytes f).toNat = ∑ i : Fin 8, (f i).toNat * 2 ^ (8 * i.val) := by
  simp only [toNat_wordOfBytes, Fin.sum_univ_eight, Fin.coe_ofNat_eq_mod]
  ring

/-- Settles O38: each half is a `wordOfBytes`. -/
theorem ingestedWords : Obligations.IngestedWords := fun b =>
  ⟨toNat_wordOfBytes_eq_sum fun i => b[i.val], toNat_wordOfBytes_eq_sum fun i => b[8 + i.val]⟩

/-! ## Serialising undoes ingesting, and conversely (R54, R82) -/

theorem toNat_byteOfWord (w : Word) (i : Nat) : (byteOfWord w i).toNat = w.toNat / 2 ^ (8 * i) % 2 ^ 8 := by
  rw [byteOfWord, BitVec.extractLsb'_toNat, Nat.shiftRight_eq_div_pow]

theorem byteOfWord_wordOfBytes (f : Fin 8 → Byte) (i : Fin 8) : byteOfWord (wordOfBytes f) i.val = f i := by
  apply BitVec.eq_of_toNat_eq
  rw [toNat_byteOfWord, toNat_wordOfBytes]
  fin_cases i <;>
    simp only [Fin.reduceFinMk, Fin.zero_eta, Fin.mk_one, Nat.reduceMul, Nat.reducePow] <;> omega

theorem wordOfBytes_byteOfWord (w : Word) : (wordOfBytes fun i => byteOfWord w i.val) = w := by
  apply BitVec.eq_of_toNat_eq
  simp only [toNat_wordOfBytes, toNat_byteOfWord, Fin.coe_ofNat_eq_mod, Nat.reduceMod, Nat.reduceMul,
    Nat.reducePow]
  omega

theorem blockOfWords_ingested (b : Block) : blockOfWords (lowWordOfBlock b) (highWordOfBlock b) = b := by
  apply Vector.ext
  intro i hi
  by_cases hlow : i < 8
  · rw [getElem_blockOfWords_low _ _ ⟨i, hlow⟩, lowWordOfBlock_eq, byteOfWord_wordOfBytes _ ⟨i, hlow⟩]
  · obtain ⟨j, rfl⟩ := Nat.exists_eq_add_of_le (Nat.le_of_not_lt hlow)
    have hj : j < 8 := by omega
    rw [getElem_blockOfWords_high _ _ ⟨j, hj⟩, highWordOfBlock_eq, byteOfWord_wordOfBytes _ ⟨j, hj⟩]

theorem lowWordOfBlock_blockOfWords (w0 w1 : Word) : lowWordOfBlock (blockOfWords w0 w1) = w0 := by
  simp only [lowWordOfBlock_eq, getElem_blockOfWords_low, wordOfBytes_byteOfWord]

theorem highWordOfBlock_blockOfWords (w0 w1 : Word) : highWordOfBlock (blockOfWords w0 w1) = w1 := by
  simp only [highWordOfBlock_eq, getElem_blockOfWords_high, wordOfBytes_byteOfWord]

theorem portOfBlock_eq_append (b : Block) : portOfBlock b = highWordOfBlock b ++ lowWordOfBlock b := by
  apply BitVec.eq_of_toNat_eq
  simp only [portOfBlock, highWordOfBlock, lowWordOfBlock, le64, toNat_append]
  ring

/-- Settles O40: bytes and words undo each other half by half; the port has the bytes in the same order. -/
theorem mirrorLaw : Obligations.MirrorLaw :=
  ⟨blockOfWords_ingested, fun w0 w1 => ⟨lowWordOfBlock_blockOfWords w0 w1, highWordOfBlock_blockOfWords w0 w1⟩,
    portOfBlock_eq_append⟩

/-! ## Round-key indices (R57, R130, R140) -/

theorem toNat_encKeyIndex {r : StepCount} (h1 : 1 ≤ r.toNat) (h32 : r.toNat ≤ 32) :
    (encKeyIndex r).toNat = r.toNat - 1 := by
  have hsub : (r - 1).toNat = r.toNat - 1 := BitVec.toNat_sub_of_le (by simpa [BitVec.le_def] using h1)
  rw [encKeyIndex, BitVec.extractLsb'_toNat, hsub, Nat.shiftRight_zero, Nat.mod_eq_of_lt (by omega)]

theorem toNat_decKeyIndex {r : StepCount} (h1 : 1 ≤ r.toNat) (h32 : r.toNat ≤ 32) :
    (decKeyIndex r).toNat = 32 - r.toNat := by
  have hsub : (32 - r).toNat = 32 - r.toNat := BitVec.toNat_sub_of_le (by simpa [BitVec.le_def] using h32)
  rw [decKeyIndex, BitVec.extractLsb'_toNat, hsub, Nat.shiftRight_zero, Nat.mod_eq_of_lt (by omega)]

/-- The mirror of the two directions: no range is needed, for the words wrap alike. -/
theorem decKeyIndex_eq_encKeyIndex (r : StepCount) : decKeyIndex r = encKeyIndex (33 - r) := by
  have hsub : 33 - r - 1 = 32 - r := by bv_omega
  rw [encKeyIndex, hsub, decKeyIndex]

/-- Settles O41: both indices as numbers, and their mirror. -/
theorem roundKeyIndices : Obligations.RoundKeyIndices := fun r h1 h32 =>
  ⟨toNat_encKeyIndex h1 h32, toNat_decKeyIndex h1 h32, decKeyIndex_eq_encKeyIndex r⟩

/-! ## The key-store port (R65) -/

/-- A round drives the index of its direction; every other micro-operation drives none. -/
theorem exec_rkIndex_cases {i : Instr} {s t : State} (h : exec i s = .next t) :
    (i = .encRound ∧ (1 ≤ s.cipher.step.toNat ∧ s.cipher.step.toNat ≤ 32) ∧
      t.outputs.rkIndex = some (encKeyIndex s.cipher.step)) ∨
    (i = .decRound ∧ (1 ≤ s.cipher.step.toNat ∧ s.cipher.step.toNat ≤ 32) ∧
      t.outputs.rkIndex = some (decKeyIndex s.cipher.step)) ∨
    ((i ≠ .encRound ∧ i ≠ .decRound) ∧ t.outputs.rkIndex = none) := by
  rcases exec_next_cases h with ⟨rfl, rfl⟩ | ⟨b, rfl, -, rfl⟩ | ⟨b, rfl, -, rfl⟩ | ⟨rfl | rfl, -, rfl⟩ |
    ⟨rfl, hin, rfl⟩ | ⟨rfl, hin, rfl⟩ | ⟨rfl | rfl, -, rfl⟩ | ⟨rfl | rfl, -, rfl⟩
  case inr.inr.inr.inr.inl => exact .inl ⟨rfl, hin, rfl⟩
  case inr.inr.inr.inr.inr.inl => exact .inr (.inl ⟨rfl, hin, rfl⟩)
  all_goals exact .inr (.inr ⟨⟨nofun, nofun⟩, rfl⟩)

theorem rkRe_iff {t : State} : t.rkRe = true ↔ ∃ k, t.outputs.rkIndex = some k :=
  Option.isSome_iff_exists

theorem rkIndexPort_of_some {t : State} {k : KeyIndex} (h : t.outputs.rkIndex = some k) : t.rkIndexPort = k := by
  simp [State.rkIndexPort, h]

/-- Settles O24: the three cases of `exec_rkIndex_cases`, with the indices of R57. -/
theorem keyStorePort : Obligations.KeyStorePort := by
  intro i s t h
  rcases exec_rkIndex_cases h with ⟨rfl, ⟨h1, h32⟩, hk⟩ | ⟨rfl, ⟨h1, h32⟩, hk⟩ | ⟨⟨hE, hD⟩, hk⟩
  · refine ⟨iff_of_true (rkRe_iff.mpr ⟨_, hk⟩) (.inl rfl), fun _ => ?_, nofun⟩
    rw [rkIndexPort_of_some hk, toNat_encKeyIndex h1 h32]
  · refine ⟨iff_of_true (rkRe_iff.mpr ⟨_, hk⟩) (.inr rfl), nofun, fun _ => ?_⟩
    rw [rkIndexPort_of_some hk, toNat_decKeyIndex h1 h32]
  · exact ⟨iff_of_false (by simp [rkRe_iff, hk]) (not_or.mpr ⟨hE, hD⟩), (absurd · hE), (absurd · hD)⟩

end Sys2Proof.Machine
end

section
/-!
SUPPORT. The proofs of the family 30_encoding: the bytes of a block port (R82), the decoder as the inverse of the
encoder (R80 to R84), the steps that a micro-operation is selected at (R83), and what a transition reports (R87, R88).
-/

namespace Sys2Proof.Machine

/-! ## The bytes of a block port (R82) -/

/-- A block port is two words, so the mirror law of R54 settles both inverse laws of the port. -/
theorem blockOfPort_append (x y : Word) : blockOfPort (x ++ y) = blockOfWords y x := by
  apply Vector.ext
  intro i hi
  rw [getElem_blockOfPort _ i hi]
  by_cases hlow : i < 8
  · rw [getElem_blockOfWords_low _ _ ⟨i, hlow⟩, BitVec.extractLsb'_append_eq_of_add_le (by omega), byteOfWord]
  · obtain ⟨j, rfl⟩ := Nat.exists_eq_add_of_le (Nat.le_of_not_lt hlow)
    have hplace : 8 * (8 + j) - 64 = 8 * j := by omega
    rw [getElem_blockOfWords_high _ _ ⟨j, by omega⟩, BitVec.extractLsb'_append_eq_of_le (by omega), hplace,
      byteOfWord]

@[simp] theorem blockOfPort_portOfBlock (b : Block) : blockOfPort (portOfBlock b) = b := by
  rw [portOfBlock_eq_append, blockOfPort_append, blockOfWords_ingested]

@[simp] theorem portOfBlock_blockOfPort (p : BitVec 128) : portOfBlock (blockOfPort p) = p := by
  have halves : p.extractLsb' 64 64 ++ p.extractLsb' 0 64 = p := BitVec.extractLsb'_append_extractLsb'
  rw [← halves, blockOfPort_append, portOfBlock_eq_append, highWordOfBlock_blockOfWords,
    lowWordOfBlock_blockOfWords]

theorem extractLsb'_portOfBlock (b : Block) (i : Fin 16) : (portOfBlock b).extractLsb' (8 * i.val) 8 = b[i] := by
  have hbyte := getElem_blockOfPort (portOfBlock b) i.val i.isLt
  rw [blockOfPort_portOfBlock] at hbyte
  exact hbyte.symm

theorem evBlock_of_event {s : State} {e : Event} (h : s.outputs.event = some e) :
    s.evBlock = portOfBlock e.payload := by
  simp [State.evBlock, h]

/-- Settles O7: the output and the event port are `portOfBlock` of the output buffer and of the payload. -/
theorem portBytes : Obligations.PortBytes :=
  ⟨fun p i => getElem_blockOfPort p i.val i.isLt, fun s i => extractLsb'_portOfBlock s.cipher.output i,
    fun _ e i he => by rw [evBlock_of_event he, extractLsb'_portOfBlock],
    blockOfPort_portOfBlock, portOfBlock_blockOfPort⟩

/-! ## What the decoder answers, by command code (R83, R84) -/

theorem opCode_cases (op : OpCode) : op = 0b00 ∨ op = 0b01 ∨ op = 0b10 ∨ op = 0b11 := by
  revert op; decide

theorem decode_nop {v : Variant} {st : StepCount} {valid : Bool} {cw : CommandWord}
    (h : valid = false ∨ opOfWord cw = 0b00) : decode v st valid cw = .ok .nop := if_pos h

theorem decode_start {v : Variant} {st : StepCount} {cw : CommandWord} (h : opOfWord cw = 0b01) :
    decode v st true cw = .ok (selectStart st (blockOfPort (portOfWord cw))) := by
  simp [decode, h]

theorem decode_pollE {v : Variant} {st : StepCount} {cw : CommandWord} (h : opOfWord cw = 0b10)
    (hv : v.hasPollE) : decode v st true cw = .ok (selectPollE st) := by
  simp [decode, h, hv]

theorem decode_pollD {v : Variant} {st : StepCount} {cw : CommandWord} (h : opOfWord cw = 0b11)
    (hv : v.hasPollD) : decode v st true cw = .ok (selectPollD st) := by
  simp [decode, h, hv]

theorem decode_reservedPollE {st : StepCount} {cw : CommandWord} (h : opOfWord cw = 0b10) :
    decode .dec st true cw = .error .reservedPollE := by
  simp [decode, h]

theorem decode_reservedPollD {st : StepCount} {cw : CommandWord} (h : opOfWord cw = 0b11) :
    decode .enc st true cw = .error .reservedPollD := by
  simp [decode, h]

theorem reserves_pollE_iff {v : Variant} : v.reserves 0b10 = false ↔ v.hasPollE := by
  cases v <;> decide

theorem reserves_pollD_iff {v : Variant} : v.reserves 0b11 = false ↔ v.hasPollD := by
  cases v <;> decide

/-- The variant matters for the codes it reserves alone (R84). -/
theorem decode_eq_decode_both {v : Variant} {st : StepCount} {valid : Bool} {cw : CommandWord}
    (h : v.reserves (opOfWord cw) = false ∨ valid = false) :
    decode v st valid cw = decode .both st valid cw := by
  cases valid with
  | false => rw [decode_nop (.inl rfl), decode_nop (.inl rfl)]
  | true =>
    have hres : v.reserves (opOfWord cw) = false := h.resolve_right nofun
    rcases opCode_cases (opOfWord cw) with hop | hop | hop | hop
    · rw [decode_nop (.inr hop), decode_nop (.inr hop)]
    · rw [decode_start hop, decode_start hop]
    · rw [decode_pollE hop (reserves_pollE_iff.mp (hop ▸ hres)), decode_pollE (v := .both) hop nofun]
    · rw [decode_pollD hop (reserves_pollD_iff.mp (hop ▸ hres)), decode_pollD (v := .both) hop nofun]

theorem decode_both_isOk (st : StepCount) (valid : Bool) (cw : CommandWord) :
    ∃ i, decode .both st valid cw = .ok i := by
  cases h : decode .both st valid cw with
  | ok i => exact ⟨i, rfl⟩
  | error e => rcases decode_error_cases h with ⟨-, -, hv, -⟩ | ⟨-, -, hv, -⟩ <;> cases hv

/-- Settles O5: the two refusals, the decoder of BOTH has none, and the variant matters for reserved codes alone. -/
theorem reservedCommandsRefused : Obligations.ReservedCommandsRefused := by
  refine ⟨fun s hrst hvalid => ⟨fun hv hop => ?_, fun hv hop => ?_⟩, decode_both_isOk,
    fun _ _ cw => ⟨fun h => decode_eq_decode_both ?_, fun h => decode_eq_decode_both ?_⟩⟩
  · refine step_of_reserved hrst (e := .reservedPollD) ?_
    rw [State.decodeCommand, sample_variant, hv, hvalid]
    exact decode_reservedPollD ((opOfWord_commandWord _ _).trans hop)
  · refine step_of_reserved hrst (e := .reservedPollE) ?_
    rw [State.decodeCommand, sample_variant, hv, hvalid]
    exact decode_reservedPollE ((opOfWord_commandWord _ _).trans hop)
  · exact h.imp_left beq_eq_false_iff_ne.mpr
  · exact h.imp_left beq_eq_false_iff_ne.mpr

/-! ## The row that the decoder selects, and its word (R80, R81, R83) -/

theorem selectedAt_iff {i : Instr} {st : StepCount} :
    i.selectedAt st = true ↔ i.stepRange.1 ≤ st.toNat ∧ st.toNat ≤ i.stepRange.2 := decide_eq_true_iff

theorem selectedAt_eq_false_iff {i : Instr} {st : StepCount} :
    i.selectedAt st = false ↔ ¬(i.stepRange.1 ≤ st.toNat ∧ st.toNat ≤ i.stepRange.2) := decide_eq_false_iff_not

theorem toNat_le_63 (st : StepCount) : st.toNat ≤ 63 := Nat.le_of_lt_succ st.isLt

theorem nop_selectedAt (st : StepCount) : Instr.nop.selectedAt st = true :=
  selectedAt_iff.mpr ⟨Nat.zero_le _, toNat_le_63 st⟩

theorem wellFormed_iff {v : Variant} {st : StepCount} {i : Instr} :
    i.wellFormed v st = true ↔ i.selectedAt st = true ∧ v.reserves i.op = false := by
  simp [Instr.wellFormed]

theorem wellFormed_both {st : StepCount} {i : Instr} (h : i.selectedAt st = true) : i.wellFormed .both st = true :=
  wellFormed_iff.mpr ⟨h, rfl⟩

@[simp] theorem opOfWord_encode (i : Instr) : opOfWord (encode i) = i.op := opOfWord_commandWord _ _

@[simp] theorem portOfWord_encode (i : Instr) : portOfWord (encode i) = i.port := portOfWord_commandWord _ _

theorem selectStart_op (st : StepCount) (b : Block) : (selectStart st b).op = 0b01 := by
  unfold selectStart; split <;> rfl

theorem selectStart_port (st : StepCount) (b : Block) : (selectStart st b).port = portOfBlock b := by
  unfold selectStart; split <;> rfl

theorem selectPollE_op (st : StepCount) : (selectPollE st).op = 0b10 := by
  revert st; decide

theorem selectPollD_op (st : StepCount) : (selectPollD st).op = 0b11 := by
  revert st; decide

/-- The ranges of the rows of one code do not overlap: the row selected at a step is the one the decoder finds. -/
theorem selectStart_of_selectedAt {i : Instr} {st : StepCount} (hop : i.op = 0b01) (h : i.selectedAt st = true) :
    selectStart st (blockOfPort i.port) = i := by
  obtain ⟨hlo, hhi⟩ := selectedAt_iff.mp h
  cases i
  case startAcc b =>
    have hidle : st = 0 := BitVec.eq_of_toNat_eq (Nat.le_zero.mp hhi)
    rw [hidle, selectStart_idle, Instr.port, blockOfPort_portOfBlock]
  case startRej b =>
    have hbusy : st ≠ 0 := by rintro rfl; exact Nat.not_succ_le_zero 0 hlo
    rw [selectStart_busy _ hbusy, Instr.port, blockOfPort_portOfBlock]
  all_goals cases hop

theorem selectPollE_of_selectedAt {i : Instr} {st : StepCount} (hop : i.op = 0b10) (h : i.selectedAt st = true) :
    selectPollE st = i := by
  cases i
  case polleIdle | encRound | polleNorm | polleFin | polleIll => revert st; decide
  all_goals cases hop

theorem selectPollD_of_selectedAt {i : Instr} {st : StepCount} (hop : i.op = 0b11) (h : i.selectedAt st = true) :
    selectPollD st = i := by
  cases i
  case polldIdle | decRound | polldNorm | polldFin | polldIll => revert st; decide
  all_goals cases hop

theorem eq_nop_of_op {i : Instr} (hop : i.op = 0b00) : i = .nop := by
  cases i
  case nop => rfl
  all_goals cases hop

/-- The decoder answers the row that is selected, from every word with the row's code and, for `START`, the row's
block: the other commands ignore the port (R80, R81). -/
theorem decode_of_wellFormed {v : Variant} {st : StepCount} {i : Instr} {cw : CommandWord}
    (h : i.wellFormed v st = true) (hcode : opOfWord cw = i.op) (hport : i.op = 0b01 → portOfWord cw = i.port) :
    decode v st true cw = .ok i := by
  obtain ⟨hsel, hres⟩ := wellFormed_iff.mp h
  rcases opCode_cases i.op with hop | hop | hop | hop
  · rw [decode_nop (.inr (hcode.trans hop)), eq_nop_of_op hop]
  · rw [decode_start (hcode.trans hop), hport hop, selectStart_of_selectedAt hop hsel]
  · rw [decode_pollE (hcode.trans hop) (reserves_pollE_iff.mp (hop ▸ hres)), selectPollE_of_selectedAt hop hsel]
  · rw [decode_pollD (hcode.trans hop) (reserves_pollD_iff.mp (hop ▸ hres)), selectPollD_of_selectedAt hop hsel]

/-- Settles O1: the encoded word has the row's code and its block. -/
theorem decodeOfEncode : Obligations.DecodeOfEncode := fun _ _ i h =>
  decode_of_wellFormed h (opOfWord_encode i) fun _ => portOfWord_encode i

theorem decode_ok_wellFormed {v : Variant} {st : StepCount} {valid : Bool} {cw : CommandWord} {i : Instr}
    (h : decode v st valid cw = .ok i) : i.wellFormed v st = true := by
  rw [wellFormed_iff]
  rcases decode_ok_cases h with ⟨-, rfl⟩ | ⟨-, -, rfl⟩ | ⟨-, -, hv, rfl⟩ | ⟨-, -, hv, rfl⟩
  · exact ⟨nop_selectedAt st, by cases v <;> rfl⟩
  · exact ⟨selectStart_selected st _, by rw [selectStart_op]; cases v <;> rfl⟩
  · exact ⟨selectPollE_selected st, by rwa [selectPollE_op, reserves_pollE_iff]⟩
  · exact ⟨selectPollD_selected st, by rwa [selectPollD_op, reserves_pollD_iff]⟩

/-- Settles O2: the four ways of decoding, each selected at the step and with a code the variant has. -/
theorem decodedIsWellFormed : Obligations.DecodedIsWellFormed := fun _ _ _ _ _ => decode_ok_wellFormed

theorem decode_ok_op {v : Variant} {st : StepCount} {cw : CommandWord} {i : Instr}
    (h : decode v st true cw = .ok i) : i.op = opOfWord cw := by
  rcases decode_ok_cases h with ⟨hop, rfl⟩ | ⟨-, hop, rfl⟩ | ⟨-, hop, -, rfl⟩ | ⟨-, hop, -, rfl⟩
  · exact (hop.resolve_left nofun).symm
  · rw [selectStart_op, hop]
  · rw [selectPollE_op, hop]
  · rw [selectPollD_op, hop]

/-- A decoded `START` keeps all 128 bits of its port (R80, R82). -/
theorem decode_ok_port {v : Variant} {st : StepCount} {valid : Bool} {cw : CommandWord} {i : Instr}
    (h : decode v st valid cw = .ok i) (hop : i.op = 0b01) : i.port = portOfWord cw := by
  rcases decode_ok_cases h with ⟨-, rfl⟩ | ⟨-, -, rfl⟩ | ⟨-, -, -, rfl⟩ | ⟨-, -, -, rfl⟩
  · cases hop
  · rw [selectStart_port, portOfBlock_blockOfPort]
  · rw [selectPollE_op] at hop; cases hop
  · rw [selectPollD_op] at hop; cases hop

/-- Settles O3: the code is kept, and a `START` word is its code and its kept port. -/
theorem encodeOfDecoded : Obligations.EncodeOfDecoded := by
  intro v st cw i h
  have hcode := decode_ok_op h
  refine ⟨(opOfWord_encode i).trans hcode, fun hop => ?_⟩
  rw [encode, hcode, decode_ok_port h (hcode.trans hop), commandWord_of_fields]

/-- A row of the dispatch table of BOTH: the decoder answers it from its code and a step in its range. -/
theorem decode_both_row {i : Instr} {st : StepCount} {p : BitVec 128} (hlo : i.stepRange.1 ≤ st.toNat)
    (hhi : st.toNat ≤ i.stepRange.2) (hport : i.op = 0b01 → p = i.port) :
    decode .both st true (commandWord i.op p) = .ok i :=
  decode_of_wellFormed (wellFormed_both (selectedAt_iff.mpr ⟨hlo, hhi⟩)) (opOfWord_commandWord _ _)
    fun hop => (portOfWord_commandWord _ _).trans (hport hop)

/-- Settles O4: `decode_both_row` at each row of the table. -/
theorem dispatchTable : Obligations.DispatchTable := by
  intro st valid op p
  have hmax := toNat_le_63 st
  have hblock := (portOfBlock_blockOfPort p).symm
  refine ⟨fun h => decode_nop (h.imp_right (opOfWord_commandWord op p).trans), ?_, ?_, ?_⟩ <;> rintro rfl rfl
  · exact ⟨fun h => decode_both_row (i := .startAcc _) h.ge h.le fun _ => hblock,
      fun h => decode_both_row (i := .startRej _) h hmax fun _ => hblock⟩
  · exact ⟨fun h => decode_both_row (i := .polleIdle) h.ge h.le nofun,
      fun h1 h32 => decode_both_row (i := .encRound) h1 h32 nofun,
      fun h => decode_both_row (i := .polleNorm) h.ge h.le nofun,
      fun h => decode_both_row (i := .polleFin) h.ge h.le nofun,
      fun h => decode_both_row (i := .polleIll) h hmax nofun⟩
  · exact ⟨fun h => decode_both_row (i := .polldIdle) h.ge h.le nofun,
      fun h1 h32 => decode_both_row (i := .decRound) h1 h32 nofun,
      fun h => decode_both_row (i := .polldNorm) h.ge h.le nofun,
      fun h => decode_both_row (i := .polldFin) h.ge h.le nofun,
      fun h => decode_both_row (i := .polldIll) h hmax nofun⟩

/-- Settles O6: eight closed words, evaluated. -/
theorem specWordsDecode : Obligations.SpecWordsDecode := by
  unfold Obligations.SpecWordsDecode
  decide

/-! ## The range of steps of a micro-operation (R83) -/

/-- Every meaning is its row's `require` around a result that is no refusal; the one of `NOP` always holds. -/
theorem exec_eq_requireStep (i : Instr) (s : State) :
    ∃ m r, exec i s = requireStep i.stepRange.1 i.stepRange.2 m s r ∧ ∀ q, r ≠ .refused q := by
  cases i
  case nop =>
    exact ⟨"NOP", .next s.quiet, (requireStep_in ⟨Nat.zero_le _, toNat_le_63 s.cipher.step⟩).symm, nofun⟩
  all_goals exact ⟨_, _, rfl, nofun⟩

theorem exec_ne_refused {i : Instr} {s : State} (h : i.selectedAt s.cipher.step = true) (q : Refusal) :
    exec i s ≠ .refused q := by
  obtain ⟨m, r, hexec, hr⟩ := exec_eq_requireStep i s
  rw [hexec, requireStep_in (selectedAt_iff.mp h)]
  exact hr q

/-- Settles O26: outside the range the `require` refuses by name. -/
theorem outOfRangeIsRefused : Obligations.OutOfRangeIsRefused := by
  intro i s h
  obtain ⟨m, r, hexec, -⟩ := exec_eq_requireStep i s
  exact ⟨m, hexec.trans (requireStep_out (selectedAt_eq_false_iff.mp h))⟩

/-- A step refuses reserved commands alone: what it decodes is selected at the current step. -/
theorem step_refused_cases {s : State} {q : Refusal} (h : step s = .refused q) :
    q = .reservedPollE ∨ q = .reservedPollD := by
  by_cases hrst : s.presented.rst = true
  · rw [step_of_rst hrst] at h; cases h
  · rw [Bool.not_eq_true] at hrst
    cases hd : s.sample.decodeCommand s.presented with
    | ok i =>
      rw [step_of_decode hrst hd] at h
      exact absurd h (exec_ne_refused (wellFormed_iff.mp (decode_ok_wellFormed hd)).1 q)
    | error e =>
      rw [step_of_reserved hrst hd] at h
      cases e <;> cases h
      · exact .inl rfl
      · exact .inr rfl

/-- Settles O12: neither refusal is the one of a reserved command. -/
theorem stepSelectsInRange : Obligations.StepSelectsInRange := fun _ _ =>
  ⟨fun h => (step_refused_cases h).elim nofun nofun, fun h => (step_refused_cases h).elim nofun nofun⟩

/-! ## What a transition reports (R87, R88) -/

/-- The response that goes with an event (R87, R88). -/
def EventKind.response : EventKind → Response
  | .accepted => .accepted
  | .rejected => .rejected
  | .finished => .finished

/-- The transition answered with the response of the kind `k`, and its event, if the callback is present, carries
`b` (R88). -/
structure State.Reports (t : State) (k : EventKind) (b : Block) : Prop where
  rsp : t.outputs.rsp = k.response
  event : ∃ seen, t.outputs.event = t.cfg.gate k { kind := k, payload := b, seen := seen } none

/-- The transition answered NONE and fired no event. -/
structure State.Silent (t : State) : Prop where
  rsp : t.outputs.rsp = .none
  event : t.outputs.event = none

/-- An accepted and a rejected `START` report their block, a completion the output buffer, all others nothing. -/
theorem exec_report_cases {i : Instr} {s t : State} (h : exec i s = .next t) :
    (∃ b, i = .startAcc b ∧ t.Reports .accepted b) ∨
    (∃ b, i = .startRej b ∧ t.Reports .rejected b) ∨
    ((i = .polleFin ∨ i = .polldFin) ∧ t.Reports .finished s.cipher.output ∧ t.cipher.output = s.cipher.output) ∨
    ((i.op ≠ 0b01 ∧ i ≠ .polleFin ∧ i ≠ .polldFin) ∧ t.Silent) := by
  rcases exec_next_cases h with ⟨rfl, rfl⟩ | ⟨b, rfl, -, rfl⟩ | ⟨b, rfl, -, rfl⟩ | ⟨rfl | rfl, -, rfl⟩ |
    ⟨rfl, -, rfl⟩ | ⟨rfl, -, rfl⟩ | ⟨rfl | rfl, -, rfl⟩ | ⟨hi, -, rfl⟩
  case inr.inl => exact .inl ⟨b, rfl, rfl, _, rfl⟩
  case inr.inr.inl => exact .inr (.inl ⟨b, rfl, rfl, _, rfl⟩)
  case inr.inr.inr.inr.inr.inr.inr => exact .inr (.inr (.inl ⟨hi, ⟨rfl, _, rfl⟩, rfl⟩))
  all_goals exact .inr (.inr (.inr ⟨⟨by decide, nofun, nofun⟩, rfl, rfl⟩))

/-- Settles O23: each report has its own code, and NONE is none of the three. -/
theorem responseCodes : Obligations.ResponseCodes := by
  intro i s t h
  unfold State.rspCode
  rcases exec_report_cases h with ⟨b, rfl, hr⟩ | ⟨b, rfl, hr⟩ | ⟨rfl | rfl, hr, -⟩ | ⟨⟨hop, hE, hD⟩, hr⟩
  case inr.inr.inr =>
    have hacc : ¬∃ b, i = .startAcc b := by rintro ⟨b, rfl⟩; exact hop rfl
    have hrej : ¬∃ b, i = .startRej b := by rintro ⟨b, rfl⟩; exact hop rfl
    simp [hr.rsp, Response.code, hacc, hrej, hE, hD]
  all_goals simp [hr.rsp, EventKind.response, Response.code]

theorem State.Reports.fired {t : State} {k : EventKind} {b : Block} (h : t.Reports k b) (k' : EventKind) :
    t.outputs.fired k' = (t.cfg.enables k && k == k') := by
  obtain ⟨-, seen, he⟩ := h
  rw [Outputs.fired, he, gate_eq_ite]
  cases t.cfg.enables k <;> rfl

/-- A report fires its own event alone, with its block on the port. -/
theorem State.Reports.of_fired {t : State} {k k' : EventKind} {b : Block} (h : t.Reports k b)
    (hf : t.outputs.fired k' = true) : k = k' ∧ t.evBlock = portOfBlock b := by
  rw [h.fired, Bool.and_eq_true, beq_iff_eq] at hf
  obtain ⟨henabled, hkind⟩ := hf
  obtain ⟨-, seen, he⟩ := h
  have hport := evBlock_of_event (he.trans (gate_eq_some_iff.mpr ⟨henabled, rfl⟩))
  exact ⟨hkind, hport⟩

/-- R88: each event output is its response, gated by its presence bit. -/
def State.eventsGated (t : State) : Prop :=
  t.evAccepted = (t.rspCode == 0b01 && t.cfg.cbEn.getLsbD 0) ∧
  t.evRejected = (t.rspCode == 0b10 && t.cfg.cbEn.getLsbD 1) ∧
  t.evFinished = (t.rspCode == 0b11 && t.cfg.cbEn.getLsbD 2)

theorem State.Reports.eventsGated {t : State} {k : EventKind} {b : Block} (h : t.Reports k b) :
    t.eventsGated := by
  simp only [State.eventsGated, State.evAccepted, State.evRejected, State.evFinished, State.rspCode, h.fired, h.rsp]
  cases k <;> simp [EventKind.response, Response.code, Configuration.enables, EventKind.enableBit]

theorem State.Silent.fired {t : State} (h : t.Silent) (k : EventKind) : t.outputs.fired k = false := by
  simp [Outputs.fired, h.event]

theorem State.Silent.eventsGated {t : State} (h : t.Silent) : t.eventsGated := by
  simp [State.eventsGated, State.evAccepted, State.evRejected, State.evFinished, State.rspCode, h.fired, h.rsp,
    Response.code]

/-- The block of a decoded `START` is the one on the command port (R82). -/
theorem decodeCommand_port {s : State} {i : Instr} (h : s.sample.decodeCommand s.presented = .ok i)
    (hop : i.op = 0b01) : i.port = s.presented.cmdBlock :=
  (decode_ok_port h hop).trans (portOfWord_commandWord _ _)

/-- A cycle reports nothing, or the block on the command port, or the output buffer, which it keeps. -/
theorem step_report_cases {s t : State} (h : step s = .next t) :
    t.Silent ∨
    (∃ k b, k ≠ .finished ∧ t.Reports k b ∧ portOfBlock b = s.presented.cmdBlock) ∨
    (t.Reports .finished s.cipher.output ∧ t.cipher.output = s.cipher.output) := by
  rcases step_next_cases h with ⟨-, rfl⟩ | ⟨-, i, hd, hexec⟩
  · exact .inl ⟨rfl, rfl⟩
  · rcases exec_report_cases hexec with ⟨b, rfl, hr⟩ | ⟨b, rfl, hr⟩ | ⟨-, hr, hout⟩ | ⟨-, hr⟩
    · exact .inr (.inl ⟨.accepted, b, nofun, hr, decodeCommand_port hd rfl⟩)
    · exact .inr (.inl ⟨.rejected, b, nofun, hr, decodeCommand_port hd rfl⟩)
    · exact .inr (.inr ⟨hr, hout⟩)
    · exact .inl hr

theorem step_eventsGated {s t : State} (h : step s = .next t) : t.eventsGated := by
  rcases step_report_cases h with hr | ⟨k, b, -, hr, -⟩ | ⟨hr, -⟩
  · exact hr.eventsGated
  · exact hr.eventsGated
  · exact hr.eventsGated

/-- Settles O18: every event output is gated, and a fired event is the report's own. -/
theorem eventsFollowResponse : Obligations.EventsFollowResponse := by
  intro s t h
  obtain ⟨hacc, hrej, hfin⟩ := step_eventsGated h
  refine ⟨hacc, hrej, hfin, ?_⟩
  rcases step_report_cases h with hr | ⟨k, b, hk, hr, hport⟩ | ⟨hr, hout⟩
  · simp [State.evAccepted, State.evRejected, State.evFinished, hr.fired]
  · have hblock {k' : EventKind} (hf : t.outputs.fired k' = true) := (hr.of_fired hf).2.trans hport
    exact ⟨fun hev => hev.elim hblock hblock, fun hf => absurd (hr.of_fired hf).1 hk⟩
  · have hother {k' : EventKind} (hf : t.outputs.fired k' = true) := (hr.of_fired hf).1
    exact ⟨fun hev => hev.elim (nomatch hother ·) (nomatch hother ·),
      fun hf => ⟨(hr.of_fired hf).2, congrArg portOfBlock hout⟩⟩

end Sys2Proof.Machine
end

section
/-!
SUPPORT. The proofs of the family 40_start: the whole next state of an accepted `START` (R100, R52) and of a rejected
one (R101).
-/

namespace Sys2Proof.Machine

/-- An event as an update of the event output alone, under its presence bit (R12, R26). -/
theorem emit_eq_ite (k : EventKind) (b : Block) (s : State) :
    s.emit k b =
      { s with
        outputs :=
          { s.outputs with
            event :=
              if s.cfg.cbEn.getLsbD k.enableBit = true then some { kind := k, payload := b, seen := s.cipher }
              else s.outputs.event } } := by
  rw [State.emit, gate_eq_ite, Configuration.enables]

/-- R83, R100: an idle engine meets the `require` of `START.ACC`, and its event fires after all writes. -/
theorem exec_startAcc_of_idle {s : State} (blk : Block) (h : s.cipher.step = 0) :
    exec (.startAcc blk) s = .next
      ((((s.quiet.setScratch (lowWordOfBlock blk) (highWordOfBlock blk)).setStep 1).respond .accepted).emit
        .accepted blk) := by
  have hin : 0 ≤ s.cipher.step.toNat ∧ s.cipher.step.toNat ≤ 0 := by simp [h]
  exact requireStep_in hin

/-- R83, R101: a busy engine meets the `require` of `START.REJ`. -/
theorem exec_startRej_of_busy {s : State} (blk : Block) (h : s.cipher.step ≠ 0) :
    exec (.startRej blk) s = .next ((s.quiet.respond .rejected).emit .rejected blk) := by
  have hpos : 1 ≤ s.cipher.step.toNat :=
    Nat.one_le_iff_ne_zero.mpr fun h0 => h (BitVec.eq_of_toNat_eq h0)
  exact requireStep_in ⟨hpos, toNat_le_63 s.cipher.step⟩

/-- Settles O28: the event records the Cipher State after the ingest, `step` included. -/
theorem startAccepted : Obligations.StartAccepted := by
  intro s blk hidle
  rw [exec_startAcc_of_idle blk hidle, emit_eq_ite]
  rfl

/-- Settles O29: nothing is written before the event, so it records the unchanged Cipher State. -/
theorem startRejected : Obligations.StartRejected := by
  intro s blk hbusy
  rw [exec_startRej_of_busy blk hbusy, emit_eq_ite]
  rfl

end Sys2Proof.Machine
end

section
/-!
SUPPORT. The proofs of the family 41_poll_control: what each command does to the Cipher State in one cycle (R110 to
R119), the faults (R154), and the block cycle as 34 polls, as the whole cipher and as its responses (R116 to R121).
-/

namespace Sys2Proof.Machine

/-! ## The polls, row by row (R110, R111, R113, R114, R119) -/

/-- Settles O27: `NOP` leaves its state quiet, with no `require`. -/
theorem nopChangesNothing : Obligations.NopChangesNothing := fun _ => rfl

/-- Settles O30: an idle engine meets the `require` of both rows. -/
theorem idlePollChangesNothing : Obligations.IdlePollChangesNothing := by
  intro s hidle
  have hin : 0 ≤ s.cipher.step.toNat ∧ s.cipher.step.toNat ≤ 0 := by simp [hidle]
  exact ⟨requireStep_in hin, requireStep_in hin⟩

/-- Settles O33: the step 33 meets the `require` of either poll's normalization row. -/
theorem normalizationTick : Obligations.NormalizationTick := by
  intro s h33
  have hin : 33 ≤ s.cipher.step.toNat ∧ s.cipher.step.toNat ≤ 33 := by simp [h33]
  exact ⟨requireStep_in hin, requireStep_in hin⟩

/-- R114: the event fires before `step <- 0`, so it records the state before it. -/
theorem finTick_eq (s : State) :
    finTick s =
      { s with
        cipher := { s.cipher with step := 0 }
        outputs :=
          { rsp := .finished
            rkIndex := none
            event :=
              if s.cfg.cbEn.getLsbD 2 = true then
                some { kind := .finished, payload := s.cipher.output, seen := s.cipher }
              else none } } := by
  rw [finTick, emit_eq_ite]
  rfl

/-- Settles O34: the step 34 meets the `require` of either poll's completion row. -/
theorem completionTick : Obligations.CompletionTick := by
  intro s h34
  have hin : 34 ≤ s.cipher.step.toNat ∧ s.cipher.step.toNat ≤ 34 := by simp [h34]
  rw [← finTick_eq]
  exact ⟨requireStep_in hin, requireStep_in hin⟩

/-- Settles O35: every step from 35 on is in the range of the illegal rows. -/
theorem illegalPollFaults : Obligations.IllegalPollFaults := by
  intro s h35
  have hin : 35 ≤ s.cipher.step.toNat ∧ s.cipher.step.toNat ≤ 63 := ⟨h35, toNat_le_63 _⟩
  exact ⟨requireStep_in hin, requireStep_in hin⟩

/-! ## Faults (R119, R154) -/

theorem requireStep_fault {lo hi : Nat} {m : String} {s : State} {r : Result} {f : Fault} :
    requireStep lo hi m s r = .fault f ↔
      (lo ≤ s.cipher.step.toNat ∧ s.cipher.step.toNat ≤ hi) ∧ r = .fault f := by
  unfold requireStep
  split <;> simp_all

/-- Only the two illegal rows raise a fault. -/
theorem exec_fault_cases {i : Instr} {s : State} {f : Fault} (h : exec i s = .fault f) :
    (i = .polleIll ∨ i = .polldIll) ∧ 35 ≤ s.cipher.step.toNat ∧ f = .illegalStep s.cipher.step := by
  cases i
  case nop => cases h
  case polleIll =>
    obtain ⟨⟨h35, -⟩, hf⟩ := requireStep_fault.mp h
    exact ⟨.inl rfl, h35, (Host.Outcome.fault.inj hf).symm⟩
  case polldIll =>
    obtain ⟨⟨h35, -⟩, hf⟩ := requireStep_fault.mp h
    exact ⟨.inr rfl, h35, (Host.Outcome.fault.inj hf).symm⟩
  all_goals cases (requireStep_fault.mp h).2

/-- A fault comes from the micro-operation that the command decodes to. -/
theorem step_fault_cases {s : State} {f : Fault} (h : step s = .fault f) :
    s.presented.rst = false ∧
      ∃ i, s.sample.decodeCommand s.presented = .ok i ∧ exec i s.sample = .fault f := by
  by_cases hrst : s.presented.rst = true
  · rw [step_of_rst hrst] at h; cases h
  · rw [Bool.not_eq_true] at hrst
    cases hd : s.sample.decodeCommand s.presented with
    | ok i => exact ⟨hrst, i, rfl, step_of_decode hrst hd ▸ h⟩
    | error e => rw [step_of_reserved hrst hd] at h; cases e <;> cases h

theorem exec_selectPoll_illegal {s : State} (op : OpCode) (h : 35 ≤ s.cipher.step.toNat) :
    exec (selectPoll op s.cipher.step) s = .fault (.illegalStep s.cipher.step) := by
  obtain ⟨hE, hD⟩ := illegalPollFaults s h
  rw [selectPoll, selectPollE_illegal h, selectPollD_illegal h]
  split
  · exact hE
  · exact hD

/-- The row that a command decodes to has the command's code, or it is `NOP` in the absence of a command (R81). -/
theorem decodeCommand_op {s : State} {i : Instr} (h : s.sample.decodeCommand s.presented = .ok i) :
    (s.presented.cmdValid = false ∧ i = .nop) ∨ (s.presented.cmdValid = true ∧ s.presented.cmdOp = i.op) := by
  unfold State.decodeCommand at h
  cases hvalid : s.presented.cmdValid with
  | false =>
    rw [hvalid, decode_nop (.inl rfl)] at h
    exact .inl ⟨rfl, (Except.ok.inj h).symm⟩
  | true =>
    rw [hvalid] at h
    exact .inr ⟨rfl, by rw [decode_ok_op h, opOfWord_commandWord]⟩

/-- Settles O13: a fault is an illegal row's, so a poll's that the engine has; such a poll selects it from 35 on. -/
theorem faultsExactlyOnIllegalPoll : Obligations.FaultsExactlyOnIllegalPoll := by
  intro s f
  constructor
  · intro h
    obtain ⟨hrst, i, hd, hexec⟩ := step_fault_cases h
    obtain ⟨hi, h35, hf⟩ := exec_fault_cases hexec
    refine ⟨hf, h35, hrst, ?_⟩
    have hres := (wellFormed_iff.mp (decode_ok_wellFormed hd)).2
    obtain ⟨-, rfl⟩ | ⟨hvalid, hop⟩ := decodeCommand_op hd
    · simp at hi
    · rcases hi with rfl | rfl
      · exact ⟨hvalid, .inl ⟨hop, reserves_pollE_iff.mp hres⟩⟩
      · exact ⟨hvalid, .inr ⟨hop, reserves_pollD_iff.mp hres⟩⟩
  · rintro ⟨rfl, h35, hrst, hvalid, hpoll⟩
    have hpollOf : s.presented.isPollOf s.variant := by
      rcases hpoll with ⟨hop, hv⟩ | ⟨hop, hv⟩
      · exact ⟨⟨hrst, hvalid, .inl hop⟩, fun _ => hv, fun h => absurd (hop.symm.trans h) (by decide)⟩
      · exact ⟨⟨hrst, hvalid, .inr hop⟩, fun h => absurd (hop.symm.trans h) (by decide), fun _ => hv⟩
    exact (step_of_poll hpollOf).trans (exec_selectPoll_illegal (s := s.sample) _ h35)

/-! ## What a cycle does to the Cipher State, by the command presented (R115 to R117, R122) -/

/-- The command presented leaves the Cipher State alone at the current step: `NOP`, a busy `START`, an idle poll. -/
def State.presentsIdler (s : State) : Prop :=
  (s.presented.cmdValid = false ∨ s.presented.cmdOp = 0b00) ∨
  (s.presented.cmdOp = 0b01 ∧ 1 ≤ s.cipher.step.toNat) ∨
  (s.presented.isPoll ∧ s.cipher.step.toNat = 0)

/-- A cycle without reset: nothing written, or the writes of an accepted `START` or of one of the three ticks. -/
theorem step_cipher_cases {s t : State} (h : step s = .next t) (hrst : s.presented.rst = false) :
    (s.presentsIdler ∧ t.cipher = s.cipher) ∨
    (s.presented.cmdValid = true ∧ s.presented.cmdOp = 0b01 ∧ s.cipher.step.toNat = 0 ∧ ∃ x y,
      t.cipher = { s.cipher with step := 1, scratch0 := y, scratch1 := x }) ∨
    (s.presented.isPoll ∧ (1 ≤ s.cipher.step.toNat ∧ s.cipher.step.toNat ≤ 32) ∧ ∃ x y,
      t.cipher = { s.cipher with step := s.cipher.step + 1, scratch0 := y, scratch1 := x }) ∨
    (s.presented.isPoll ∧ s.cipher.step.toNat = 33 ∧
      t.cipher =
        { s.cipher with step := 34, output := blockOfWords s.cipher.scratch0 s.cipher.scratch1 }) ∨
    (s.presented.isPoll ∧ s.cipher.step.toNat = 34 ∧ t.cipher = { s.cipher with step := 0 }) := by
  obtain ⟨hrst', -⟩ | ⟨-, i, hd, hexec⟩ := step_next_cases h
  · rw [hrst] at hrst'; cases hrst'
  obtain ⟨hvalid, rfl⟩ | ⟨hvalid, hop⟩ := decodeCommand_op hd
  · cases hexec; exact .inl ⟨.inl (.inl hvalid), rfl⟩
  have hpoll (hi : i.op = 0b10 ∨ i.op = 0b11) : s.presented.isPoll :=
    ⟨hrst, hvalid, hi.imp hop.trans hop.trans⟩
  have hpair {a b : Instr} (hi : i = a ∨ i = b) : i.op = a.op ∨ i.op = b.op :=
    hi.imp (congrArg Instr.op) (congrArg Instr.op)
  rcases exec_next_cases hexec with ⟨rfl, rfl⟩ | ⟨b, rfl, hst, rfl⟩ | ⟨b, rfl, hst, rfl⟩ | ⟨hi, hst, rfl⟩ |
    ⟨rfl, hst, rfl⟩ | ⟨rfl, hst, rfl⟩ | ⟨hi, hst, rfl⟩ | ⟨hi, hst, rfl⟩
  · exact .inl ⟨.inl (.inr hop), rfl⟩
  · exact .inr (.inl ⟨hvalid, hop, hst, _, _, rfl⟩)
  · exact .inl ⟨.inr (.inl ⟨hop, hst⟩), rfl⟩
  · exact .inl ⟨.inr (.inr ⟨hpoll (hpair hi), hst⟩), rfl⟩
  · exact .inr (.inr (.inl ⟨hpoll (.inl rfl), hst, _, _, rfl⟩))
  · exact .inr (.inr (.inl ⟨hpoll (.inr rfl), hst, _, _, rfl⟩))
  · exact .inr (.inr (.inr (.inl ⟨hpoll (hpair hi), hst, rfl⟩)))
  · exact .inr (.inr (.inr (.inr ⟨hpoll (hpair hi), hst, rfl⟩)))

theorem not_start_of_poll {op : OpCode} {p : Prop} (h : op = 0b10 ∨ op = 0b11) : ¬(op = 0b01 ∧ p) := by
  rintro ⟨rfl, -⟩
  exact absurd h (by decide)

/-- Settles O17: beside a reset cycle, the edges are the last four cases of `step_cipher_cases`. -/
theorem stepCounterEdges : Obligations.StepCounterEdges := by
  intro s t h
  by_cases hrst : s.presented.rst = true
  · rw [step_of_rst hrst] at h
    cases h
    rw [if_pos hrst]
    rfl
  rw [if_neg hrst]
  rcases step_cipher_cases h (Bool.not_eq_true _ ▸ hrst) with ⟨hidler, ht⟩ | ⟨hvalid, hop, hst, x, y, ht⟩ |
    ⟨⟨-, hvalid, hop⟩, hst, x, y, ht⟩ | ⟨⟨-, hvalid, hop⟩, hst, ht⟩ | ⟨⟨-, hvalid, hop⟩, hst, ht⟩
  · rw [ht]
    rcases hidler with (hvalid | hop) | ⟨hop, hst⟩ | ⟨⟨-, hvalid, hop⟩, hst⟩
    · simp [hvalid]
    · simp [hop]
    · have h0 : s.cipher.step.toNat ≠ 0 := by omega
      simp [hop, h0]
    · rw [if_neg (ne_false_of_eq_true hvalid), if_neg (not_start_of_poll hop), if_neg (by omega), if_neg (by omega)]
  · simp [ht, hvalid, hop, hst]
  · rw [if_neg (ne_false_of_eq_true hvalid), if_neg (not_start_of_poll hop), if_pos ⟨hop, by omega⟩, ht]
    exact toNat_step_add_one (by omega)
  · rw [if_neg (ne_false_of_eq_true hvalid), if_neg (not_start_of_poll hop), if_pos ⟨hop, by omega⟩, ht, hst]
    rfl
  · rw [if_neg (ne_false_of_eq_true hvalid), if_neg (not_start_of_poll hop), if_neg (by omega),
      if_pos ⟨hop, hst⟩, ht]
    rfl

/-- Settles O20: of the five cases of `step_cipher_cases` the normalization alone writes the output buffer. -/
theorem outputPersists : Obligations.OutputPersists := by
  intro s t h hrst hkeep
  rcases step_cipher_cases h hrst with ⟨-, ht⟩ | ⟨-, -, -, x, y, ht⟩ | ⟨-, -, x, y, ht⟩ | ⟨hpoll, h33, -⟩ |
    ⟨-, -, ht⟩
  case inr.inr.inr.inl => exact absurd hpoll (hkeep.resolve_left (absurd h33))
  all_goals rw [ht]

/-- A cycle without reset runs `NOP` if none or the code 00 is presented (R81, R110). -/
theorem step_of_nop {s : State} (hrst : s.presented.rst = false)
    (h : s.presented.cmdValid = false ∨ s.presented.cmdOp = 0b00) : step s = .next s.sample.quiet :=
  step_of_decode hrst (decode_nop (h.imp_right (opOfWord_commandWord _ _).trans))

/-- A `START` of a busy engine runs `START.REJ` with the block on the port (R82, R101). -/
theorem step_of_start_busy {s : State} (hrst : s.presented.rst = false) (hvalid : s.presented.cmdValid = true)
    (hop : s.presented.cmdOp = 0b01) (hbusy : s.cipher.step ≠ 0) :
    step s = .next
      ((s.sample.quiet.respond .rejected).emit .rejected (blockOfPort s.presented.cmdBlock)) := by
  have hd : s.sample.decodeCommand s.presented = .ok (.startRej (blockOfPort s.presented.cmdBlock)) := by
    rw [State.decodeCommand, hvalid, decode_start ((opOfWord_commandWord _ _).trans hop), portOfWord_commandWord,
      sample_cipher, selectStart_busy _ hbusy]
  exact (step_of_decode hrst hd).trans (exec_startRej_of_busy (s := s.sample) _ hbusy)

/-- Settles O21: `NOP` and `START.REJ` write outputs alone, on the sampled state. -/
theorem interleavedCommandsKeepTheBlock : Obligations.InterleavedCommandsKeepTheBlock := by
  intro s hrst hcmd
  by_cases hnop : s.presented.cmdValid = false ∨ s.presented.cmdOp = 0b00
  · exact ⟨_, step_of_nop hrst hnop, rfl, rfl⟩
  · obtain ⟨hvalid, hop0⟩ := not_or.mp hnop
    obtain ⟨hop, hbusy⟩ := (hcmd.resolve_left hvalid).resolve_left hop0
    exact ⟨_, step_of_start_busy hrst (Bool.not_eq_false _ ▸ hvalid) hop hbusy, rfl, rfl⟩

/-! ## The polls of a block, counted (R116, R118, R121, R156) -/

/-- A round or the normalization: `step` counts one up, and nothing is reported. -/
theorem step_of_poll_tick {s : State} (h : s.presented.isPollOf s.variant) (hlo : 1 ≤ s.cipher.step.toNat)
    (hhi : s.cipher.step.toNat ≤ 33) :
    ∃ t, step s = .next t ∧ t.cipher.step.toNat = s.cipher.step.toNat + 1 ∧ t.Silent := by
  obtain hround | h33 := Nat.le_or_eq_of_le_succ hhi
  · have hlt : s.cipher.step.toNat < 63 := by omega
    exact ⟨_, step_of_poll_round h ⟨hlo, hround⟩, toNat_step_add_one hlt, rfl, rfl⟩
  · exact ⟨_, step_of_poll_norm h (BitVec.eq_of_toNat_eq h33), by rw [h33]; rfl, rfl, rfl⟩

theorem eventsOf_append (os os' : List Outputs) : eventsOf (os ++ os') = eventsOf os ++ eventsOf os' :=
  List.filterMap_append

theorem State.Silent.eventsOf_cons {t : State} (h : t.Silent) (os : List Outputs) :
    eventsOf (t.outputs :: os) = eventsOf os :=
  List.filterMap_cons_none (by rw [h.event]; rfl)

/-- What a report adds to the events: its own event, under the presence bit (R26, R156). -/
theorem State.Reports.eventsOf_cons {t : State} {k : EventKind} {b : Block} (h : t.Reports k b)
    (os : List Outputs) : eventsOf (t.outputs :: os) = t.cfg.eventIf k b ++ eventsOf os := by
  obtain ⟨-, seen, he⟩ := h
  rw [Configuration.gate] at he
  unfold eventsOf Configuration.eventIf
  cases hen : t.cfg.enables k <;> simp [he, hen]

/-- The outputs `os` are `n` responses NONE without an event. -/
structure SilentOutputs (n : Nat) (os : List Outputs) : Prop where
  rsp : os.map Outputs.rsp = List.replicate n .none
  events : eventsOf os = []

theorem State.Silent.outputs_cons {t : State} {n : Nat} {os : List Outputs} (h : t.Silent)
    (hos : SilentOutputs n os) : SilentOutputs (n + 1) (t.outputs :: os) :=
  ⟨by rw [List.map_cons, h.rsp, hos.rsp]; rfl, by rw [h.eventsOf_cons, hos.events]⟩

/-- Polls that do not go past step 34 count `step` up by one each and report nothing, the Configuration changing
or not. -/
theorem runs_ticks {qs : List Inputs} : ∀ (ps : List Inputs) {s : State}, s.inputs = ps ++ qs →
    (∀ c ∈ ps, c.isPollOf s.variant) → 1 ≤ s.cipher.step.toNat → s.cipher.step.toNat + ps.length ≤ 34 →
    ∃ t, runs ps.length s = .next t ∧ t.inputs = qs ∧ t.variant = s.variant ∧
      t.cipher.step.toNat = s.cipher.step.toNat + ps.length ∧ SilentOutputs ps.length (trace ps.length s) := by
  intro ps
  induction ps with
  | nil => exact fun hin _ _ _ => ⟨_, rfl, hin, rfl, rfl, rfl, rfl⟩
  | cons c ps ih =>
    intro s hin hps hlo hhi
    rw [List.length_cons] at hhi
    have hpoll : s.presented.isPollOf s.variant := presented_cons hin ▸ hps c List.mem_cons_self
    obtain ⟨u, hstep, hustep, husilent⟩ := step_of_poll_tick hpoll hlo (by omega)
    obtain ⟨-, hvariant, hinputs⟩ := configurationIsTheCallers s u hstep
    obtain ⟨t, hrun, htin, htvariant, htstep, htrace⟩ := ih (s := u) (by rw [hinputs, hin]; rfl)
      (fun d hd => hvariant ▸ hps d (List.mem_cons_of_mem c hd)) (by omega) (by omega)
    refine ⟨t, (runs_succ _ hstep).trans hrun, htin, htvariant.trans hvariant, ?_, ?_⟩
    · rw [htstep, hustep, List.length_cons, Nat.add_right_comm, Nat.add_assoc]
    · rw [List.length_cons, trace_succ _ hstep]
      exact husilent.outputs_cons htrace

/-- The 34 polls of a block: 33 ticks and the completion. -/
theorem runs_ticks_fin {s : State} {ps rest : List Inputs} (hst : s.cipher.step = 1) (hin : s.inputs = ps ++ rest)
    (hlen : ps.length = 34) (hps : ∀ c ∈ ps, c.isPollOf s.variant) :
    ∃ t os, runs 34 s = .next t ∧ t.cipher.step = 0 ∧ t.inputs = rest ∧ t.Reports .finished t.cipher.output ∧
      trace 34 s = os ++ [t.outputs] ∧ SilentOutputs 33 os := by
  obtain ⟨qs, c, rfl⟩ : ∃ qs c, ps = qs ++ [c] :=
    ⟨_, _, (List.dropLast_append_getLast (List.ne_nil_of_length_eq_add_one hlen)).symm⟩
  have h33 : qs.length = 33 := by simpa using hlen
  have hst1 : s.cipher.step.toNat = 1 := by rw [hst]; rfl
  obtain ⟨u, hrun, huin, huvariant, hustep, hutrace⟩ := runs_ticks qs (hin.trans (List.append_assoc ..))
    (fun d hd => hps d (List.mem_append_left _ hd)) hst1.ge (by omega)
  rw [h33] at hrun hustep hutrace
  have hpoll : u.presented.isPollOf u.variant := by
    rw [presented_cons huin, huvariant]
    exact hps c (List.mem_append_right _ List.mem_cons_self)
  have hfin := step_of_poll_fin hpoll (BitVec.eq_of_toNat_eq (by rw [hustep, hst1]; rfl))
  refine ⟨_, _, (runs_add 1 hrun).trans (runs_succ 0 hfin), rfl, by simp [huin], ⟨rfl, _, rfl⟩, ?_, hutrace⟩
  rw [trace_add 1 hrun, trace_succ 0 hfin]
  rfl

/-- Settles O44: the first `k` polls are ticks, and the last of 34 completes. -/
theorem thirtyFourPolls : Obligations.ThirtyFourPolls := by
  intro s ps rest hst hin hlen hps
  constructor
  · intro k hk
    have hst1 : s.cipher.step.toNat = 1 := by rw [hst]; rfl
    have hlenk : (ps.take k).length = k := by rw [List.length_take, hlen]; omega
    have hsplit : s.inputs = ps.take k ++ (ps.drop k ++ rest) := by
      rw [← List.append_assoc, List.take_append_drop, hin]
    obtain ⟨t, hrun, -, -, htstep, -⟩ := runs_ticks (ps.take k) hsplit
      (fun c hc => hps c (List.mem_of_mem_take hc)) hst1.ge (by omega)
    rw [hlenk] at hrun
    exact ⟨t, hrun, by omega⟩
  · obtain ⟨t, -, hrun, htstep, htin, hreport, -⟩ := runs_ticks_fin hst hin hlen hps
    exact ⟨t, hrun, htstep, by rw [State.rspCode, hreport.rsp]; rfl, htin⟩

/-- An idle engine takes a block: `step` is 1, and the block is reported (R100, R118). -/
theorem step_of_start_block {s : State} {blk : Block} {rest : List Inputs} (hidle : s.cipher.step = 0)
    (hin : s.inputs = Inputs.start blk :: rest) :
    ∃ t, step s = .next t ∧ t.cipher.step = 1 ∧ t.inputs = rest ∧ t.variant = s.variant ∧ t.cfg = s.cfg ∧
      t.Reports .accepted blk := by
  have hp : s.presented = Inputs.start blk := presented_cons hin
  have hstep := step_of_start (s := s) (by rw [hp]; rfl) (by rw [hp]; rfl) (by rw [hp]; rfl) hidle
  have hblk : blockOfPort s.presented.cmdBlock = blk := by rw [hp]; exact blockOfPort_portOfBlock blk
  rw [hblk] at hstep
  refine ⟨_, hstep.trans (exec_startAcc_of_idle (s := s.sample) blk hidle), rfl, ?_, rfl, ?_, rfl, _, rfl⟩
  · simp [hin]
  · simp [hp, Inputs.start]

/-- Settles O48: the accepted block's report, 33 silent ticks, and the completion's report. -/
theorem completesExactlyOnce : Obligations.CompletesExactlyOnce := by
  intro s blk ps rest hidle hin hlen hps
  obtain ⟨u, hstart, hust, huin, huvariant, hucfg, hacc⟩ := step_of_start_block hidle hin
  obtain ⟨t, os, hrun, -, -, hfin, htrace, hos⟩ :=
    runs_ticks_fin hust huin hlen fun c hc => huvariant ▸ (hps c hc).1
  have hrun35 : runs 35 s = .next t := (runs_succ 34 hstart).trans hrun
  have htcfg : t.cfg = s.cfg := by
    obtain ⟨t', hrun', -, hcfg, -⟩ := runs_blockCycle hidle hin hlen hps
    rw [hrun35] at hrun'
    cases hrun'
    exact hcfg
  have htrace35 : trace 35 s = u.outputs :: (os ++ [t.outputs]) := by rw [trace_succ 34 hstart, htrace]
  refine ⟨t, hrun35, ?_, ?_⟩
  · rw [htrace35, List.map_cons, List.map_append, List.map_singleton, hos.rsp, hacc.rsp, hfin.rsp]
    rfl
  · rw [htrace35, hacc.eventsOf_cons, eventsOf_append, hos.events, hfin.eventsOf_cons, hucfg, htcfg]
    simp [eventsOf]

/-! ## A block cycle as the whole cipher (R120, R134, R146) -/

/-- Polls of one code whose round at step `i + 1` is `f` with the word `i` of `keys` fold `f` over the keys. -/
theorem roundsWords_replicate {ks : KeySchedule} {op : OpCode} {f : Word × Word → Word → Word × Word}
    {keys : List Word} (hlen : keys.length = 32)
    (hround : ∀ (st : StepCount) (i : Nat) (hi : i < keys.length) (p : Word × Word), st.toNat = i + 1 →
      pollRoundWords ks op st p = f p keys[i]) :
    ∀ (n i : Nat) (st : StepCount) (p : Word × Word), i + n = 32 → st.toNat = i + 1 →
      roundsWords ks st (List.replicate n op) p = (keys.drop i).foldl f p := by
  intro n
  induction n with
  | zero =>
    intro i st p hi _
    rw [List.drop_eq_nil_of_le (by omega)]
    rfl
  | succ n ih =>
    intro i st p hi hst
    have hlt : i < keys.length := by omega
    have hsucc : (st + 1).toNat = i + 1 + 1 := by rw [toNat_step_add_one (by omega), hst]
    rw [List.drop_eq_getElem_cons hlt, List.foldl_cons, ← hround st i hlt p hst, List.replicate_succ]
    exact ih (i + 1) (st + 1) _ (by omega) hsucc

theorem pollRoundWords_of_index {ks : KeySchedule} {op : OpCode} {st : StepCount} {k : Nat} (p : Word × Word)
    (hk : k < 32) (h : (pollKeyIndex op st).toNat = k) :
    pollRoundWords ks op st p =
      if op = 0b10 then encRoundWords ks[k] p.1 p.2 else decRoundWords ks[k] p.1 p.2 := by
  subst h
  rfl

/-- Round `i + 1` of an encryption takes the word `i` of the schedule (R130, R134). -/
theorem roundsWords_pollE (ks : KeySchedule) (p : Word × Word) :
    roundsWords ks 1 (List.replicate 32 0b10) p = encryptWords ks p := by
  refine roundsWords_replicate (keys := ks.toList) (by simp) (fun st i hi p hst => ?_) 32 0 1 p rfl rfl
  have hi32 : i < 32 := by simpa using hi
  have hkey : (pollKeyIndex 0b10 st).toNat = i :=
    (toNat_encKeyIndex (by omega) (by omega)).trans (by omega)
  rw [pollRoundWords_of_index p hi32 hkey, if_pos rfl, Vector.getElem_toList]

/-- Round `i + 1` of a decryption takes the word `i` from the end of the schedule (R140, R146). -/
theorem roundsWords_pollD (ks : KeySchedule) (p : Word × Word) :
    roundsWords ks 1 (List.replicate 32 0b11) p = decryptWords ks p := by
  refine roundsWords_replicate (keys := ks.toList.reverse) (by simp) (fun st i hi p hst => ?_) 32 0 1 p rfl rfl
  have hi32 : i < 32 := by simpa using hi
  have hkey : (pollKeyIndex 0b11 st).toNat = 31 - i :=
    (toNat_decKeyIndex (by omega) (by omega)).trans (by omega)
  rw [pollRoundWords_of_index p (by omega) hkey, if_neg (by decide)]
  simp

/-- A block cycle of one poll, whose 32 rounds are the words' function `f`, puts out the cipher block of `f`. -/
theorem runs_cipherBlock {s : State} {blk : Block} {poll : Inputs} {rest : List Inputs}
    {f : Word × Word → Word × Word} (hidle : s.cipher.step = 0) (hpoll : poll.isPollOf s.variant)
    (hcfg : poll.cfg = none) (hin : s.inputs = Inputs.start blk :: (List.replicate 34 poll ++ rest))
    (hf : ∀ p, roundsWords s.cfg.keySchedule 1 (List.replicate 32 poll.cmdOp) p = f p) :
    ∃ t, runs 35 s = .next t ∧ t.cipher.step = 0 ∧ t.inputs = rest ∧ t.cfg = s.cfg ∧
      t.cipher.output = cipherBlock f blk := by
  obtain ⟨t, hrun, hdone, htcfg, htcipher⟩ := runs_blockCycle hidle hin List.length_replicate
    fun c hc => (List.eq_of_mem_replicate hc).symm ▸ ⟨hpoll, hcfg⟩
  rw [List.take_replicate, List.map_replicate, blockOfPort_portOfBlock, show min 32 34 = 32 from rfl, hf]
    at htcipher
  exact ⟨t, hrun, by rw [htcipher]; rfl, hdone.inputs, htcfg, by rw [htcipher]; rfl⟩

/-- Settles O45: the 32 rounds of POLLE fold the keys in order. -/
theorem encryptsBlock : Obligations.EncryptsBlock := fun s _ _ hidle hE hin =>
  runs_cipherBlock hidle ⟨⟨rfl, rfl, .inl rfl⟩, fun _ => hE, fun h => absurd h (by decide)⟩ rfl hin
    (roundsWords_pollE s.cfg.keySchedule)

/-- Settles O46: the 32 rounds of POLLD fold the keys in decreasing order. -/
theorem decryptsBlock : Obligations.DecryptsBlock := fun s _ _ hidle hD hin =>
  runs_cipherBlock hidle ⟨⟨rfl, rfl, .inr rfl⟩, fun h => absurd h (by decide), fun _ => hD⟩ rfl hin
    (roundsWords_pollD s.cfg.keySchedule)

end Sys2Proof.Machine
end

section
/-!
SUPPORT. The proof of the family 42_round_encrypt: the key that an encryption round reads (R57, R130) and the whole
next state of a round tick (R112, R131).
-/

namespace Sys2Proof.Machine

/-- R57, R130: the round at step `r + 1` reads the round key `r`. -/
theorem encKeyIndex_eq_ofFin {st : StepCount} {r : Fin 32} (h : st.toNat = r.val + 1) :
    encKeyIndex st = BitVec.ofFin r := by
  apply BitVec.eq_of_toNat_eq
  rw [toNat_encKeyIndex (by omega) (by omega), h, Nat.add_sub_cancel]
  rfl

/-- R11: the key read at the index `r` is the word `r` of the schedule. -/
theorem keyRead_ofFin (r : Fin 32) (s : State) : s.keyRead (BitVec.ofFin r) = s.cfg.keySchedule[r] := rfl

/-- R112: the whole state after a round tick. -/
theorem roundTick_eq (i : KeyIndex) (p : Word × Word) (s : State) :
    roundTick i p s =
      { s with
        cipher := { step := s.cipher.step + 1, scratch0 := p.2, scratch1 := p.1, output := s.cipher.output }
        outputs := { rsp := .none, event := none, rkIndex := some i } } := rfl

/-- R131 in one expression, as the pair `(x', y')`. -/
theorem encRoundWords_eq (k x y : Word) :
    encRoundWords k x y = (add64 (rotr64 x 8) y ^^^ k, rotl64 y 3 ^^^ (add64 (rotr64 x 8) y ^^^ k)) := rfl

/-- R112, R130: `ENC.ROUND` at a step 1 to 32 is the round tick of its key. -/
theorem exec_encRound_of_range {s : State} (h : 1 ≤ s.cipher.step.toNat ∧ s.cipher.step.toNat ≤ 32) :
    exec .encRound s = .next (roundTick (encKeyIndex s.cipher.step)
      (encRoundWords (s.keyRead (encKeyIndex s.cipher.step)) s.cipher.scratch1 s.cipher.scratch0) s) :=
  requireStep_in h

/-- Settles O31: the step is in the row's range and its index is `r`; the rest is the round tick. -/
theorem encryptionRound : Obligations.EncryptionRound := by
  intro s r hst
  have hin : 1 ≤ s.cipher.step.toNat ∧ s.cipher.step.toNat ≤ 32 := by omega
  rw [exec_encRound_of_range hin, encKeyIndex_eq_ofFin hst, keyRead_ofFin, encRoundWords_eq, roundTick_eq]

end Sys2Proof.Machine
end

section
/-!
SUPPORT. The proofs of the family 43_round_decrypt: the decryption round (R112, R140, R141), the two rounds as
inverses of each other (R143), and the round trip of a block (R145).
-/

namespace Sys2Proof.Machine

/-! ## The decryption round (R112, R140, R141) -/

/-- R57, R140: the decryption round at step `32 - r` reads the round key `r`. -/
theorem decKeyIndex_eq_ofFin {st : StepCount} {r : Fin 32} (h : st.toNat = 32 - r.val) :
    decKeyIndex st = BitVec.ofFin r := by
  apply BitVec.eq_of_toNat_eq
  rw [toNat_decKeyIndex (by omega) (by omega), h, Nat.sub_sub_self r.isLt.le]
  rfl

/-- R141 in one expression, as the pair `(x', y')`. -/
theorem decRoundWords_eq (k x y : Word) :
    decRoundWords k x y = (rotl64 (sub64 (x ^^^ k) (rotr64 (y ^^^ x) 3)) 8, rotr64 (y ^^^ x) 3) := rfl

/-- R112, R140: `DEC.ROUND` at a step 1 to 32 is the round tick of its key. -/
theorem exec_decRound_of_range {s : State} (h : 1 ≤ s.cipher.step.toNat ∧ s.cipher.step.toNat ≤ 32) :
    exec .decRound s = .next (roundTick (decKeyIndex s.cipher.step)
      (decRoundWords (s.keyRead (decKeyIndex s.cipher.step)) s.cipher.scratch1 s.cipher.scratch0) s) :=
  requireStep_in h

/-- Settles O32: the step is in the row's range and its index is `r`; the rest is the round tick. -/
theorem decryptionRound : Obligations.DecryptionRound := by
  intro s r hst
  have hin : 1 ≤ s.cipher.step.toNat ∧ s.cipher.step.toNat ≤ 32 := by omega
  rw [exec_decRound_of_range hin, decKeyIndex_eq_ofFin hst, keyRead_ofFin, decRoundWords_eq, roundTick_eq]

/-! ## The rounds undo each other (R143) -/

/-- The converse of `sub64_add64_cancel`. -/
@[simp] theorem add64_sub64_cancel (a b : Word) : add64 (sub64 a b) b = a :=
  BitVec.sub_add_cancel a b

/-- The second word xor the first is `rotl64 y 3`, which gives back `y`; then the key and `y` come off the first. -/
theorem decRoundWords_encRoundWords (k x y : Word) :
    decRoundWords k (encRoundWords k x y).1 (encRoundWords k x y).2 = (x, y) := by
  simp only [encRoundWords_eq, decRoundWords_eq]
  rw [xor_cancel_right, xor_cancel_right, rotr64_rotl64 (by decide), sub64_add64_cancel, rotl64_rotr64 (by decide)]

/-- The first word rotated back and `y'` added is `x xor k`, which gives back `x`; then `x` comes off the second. -/
theorem encRoundWords_decRoundWords (k x y : Word) :
    encRoundWords k (decRoundWords k x y).1 (decRoundWords k x y).2 = (x, y) := by
  simp only [encRoundWords_eq, decRoundWords_eq]
  rw [rotr64_rotl64 (by decide), add64_sub64_cancel, xor_cancel_right, rotl64_rotr64 (by decide), xor_cancel_right]

/-- Settles O42: both laws, each from the inverse laws of the rotations, of `add64` and `sub64`, and of xor. -/
theorem roundsAreInverse : Obligations.RoundsAreInverse := fun k x y =>
  ⟨decRoundWords_encRoundWords k x y, encRoundWords_decRoundWords k x y⟩

/-! ## The round trip (R145) -/

/-- Rounds are undone by their inverses, run over the keys in the opposite order. -/
theorem foldl_reverse_foldl_cancel {α β : Type} {f g : α → β → α} (h : ∀ k p, g (f p k) k = p) (ks : List β)
    (p : α) : ks.reverse.foldl g (ks.foldl f p) = p := by
  induction ks generalizing p with
  | nil => rfl
  | cons k ks ih =>
    rw [List.foldl_cons, List.reverse_cons, List.foldl_concat, ih (f p k)]
    exact h k p

theorem decryptWords_leftInverse (ks : KeySchedule) :
    Function.LeftInverse (decryptWords ks) (encryptWords ks) :=
  foldl_reverse_foldl_cancel (fun k p => decRoundWords_encRoundWords k p.1 p.2) ks.toList

/-- The encryption's order of the keys is the reverse of the decryption's. -/
theorem encryptWords_leftInverse (ks : KeySchedule) :
    Function.LeftInverse (encryptWords ks) (decryptWords ks) := by
  intro p
  rw [encryptWords, ← List.reverse_reverse ks.toList]
  exact foldl_reverse_foldl_cancel (fun k p => encRoundWords_decRoundWords k p.1 p.2) ks.toList.reverse p

/-- Blocks and words undo each other (R54), so inverse functions on words are inverse on blocks. -/
theorem cipherBlock_leftInverse {f g : Word × Word → Word × Word} (h : Function.LeftInverse g f) :
    Function.LeftInverse (cipherBlock g) (cipherBlock f) := by
  intro blk
  simp only [cipherBlock, highWordOfBlock_blockOfWords, lowWordOfBlock_blockOfWords, Prod.mk.eta]
  rw [h, blockOfWords_ingested]

/-- A block cycle of `commands`, on an engine whose variant `has` its polls, puts out the cipher block of `f`: the
common form of `EncryptsBlock` and `DecryptsBlock` (R120). -/
def CycleComputes (has : Variant → Prop) (commands : Block → List Inputs)
    (f : KeySchedule → Word × Word → Word × Word) : Prop :=
  ∀ (s : State) (blk : Block) (rest : List Inputs), s.cipher.step = 0 → has s.variant →
    s.inputs = commands blk ++ rest →
    ∃ t, runs 35 s = .next t ∧ t.cipher.step = 0 ∧ t.inputs = rest ∧ t.cfg = s.cfg ∧
      t.cipher.output = cipherBlock (f s.cfg.keySchedule) blk

theorem encryptCycle_computes : CycleComputes Variant.hasPollE encryptCommands encryptWords := encryptsBlock

theorem decryptCycle_computes : CycleComputes Variant.hasPollD decryptCommands decryptWords := decryptsBlock

/-- One order of the round trip: the second cycle, on any engine with the same schedule, takes the first one's
output back. -/
theorem CycleComputes.roundTrip {hasF hasG : Variant → Prop} {cmdF cmdG : Block → List Inputs}
    {f g : KeySchedule → Word × Word → Word × Word} (hf : CycleComputes hasF cmdF f)
    (hg : CycleComputes hasG cmdG g) (hinv : ∀ ks, Function.LeftInverse (g ks) (f ks))
    (s : State) (blk : Block) (rest : List Inputs) (hs : s.cipher.step = 0) (hhas : hasF s.variant)
    (hin : s.inputs = cmdF blk ++ rest) :
    ∃ t, runs 35 s = .next t ∧
      ∀ (d : State) (more : List Inputs), d.cipher.step = 0 → hasG d.variant →
        d.cfg.keySchedule = s.cfg.keySchedule → d.inputs = cmdG t.cipher.output ++ more →
        ∃ u, runs 35 d = .next u ∧ u.cipher.output = blk := by
  obtain ⟨t, hrun, -, -, -, hout⟩ := hf s blk rest hs hhas hin
  refine ⟨t, hrun, fun d more hd hdhas hks hdin => ?_⟩
  obtain ⟨u, hrunu, -, -, -, huout⟩ := hg d t.cipher.output more hd hdhas hdin
  refine ⟨u, hrunu, ?_⟩
  rw [huout, hks, hout, cipherBlock_leftInverse (hinv _)]

/-- Settles O47: the two orders are `CycleComputes.roundTrip` with the two inverse laws of the words. -/
theorem roundTrip : Obligations.RoundTrip :=
  ⟨encryptCycle_computes.roundTrip decryptCycle_computes decryptWords_leftInverse,
    decryptCycle_computes.roundTrip encryptCycle_computes encryptWords_leftInverse⟩

end Sys2Proof.Machine
end

section
/-!
SUPPORT. The proofs of the family 60_exceptions: the legal steps have no failure (R150), and what a handler that runs
inside a callback sees and can do (R160).
-/

namespace Sys2Proof.Machine

/-! ## No failure at a legal step (R29, R150) -/

theorem exec_ne_fault_of_stepLegal {i : Instr} {s : State} (h : s.stepLegal) (f : Fault) : exec i s ≠ .fault f := by
  intro hf
  obtain ⟨-, h35, -⟩ := exec_fault_cases hf
  have h34 : s.cipher.step.toNat ≤ 34 := h
  omega

/-- A command that decodes has a next state at a legal step: its row's `require` holds, and it is no illegal row. -/
theorem exec_decoded_next {v : Variant} {valid : Bool} {cw : CommandWord} {i : Instr} {s : State}
    (h : s.stepLegal) (hd : decode v s.cipher.step valid cw = .ok i) : ∃ t, exec i s = .next t := by
  have hselected := (wellFormed_iff.mp (decode_ok_wellFormed hd)).1
  cases hexec : exec i s with
  | next t => exact ⟨t, rfl⟩
  | fault f => exact absurd hexec (exec_ne_fault_of_stepLegal h f)
  | refused q => exact absurd hexec (exec_ne_refused hselected q)

/-- Settles O14: only a decoded command faults, and with both polls every command decodes. -/
theorem legalStepNeverFails : Obligations.LegalStepNeverFails := by
  intro s hlegal
  constructor
  · intro f hf
    obtain ⟨-, i, -, hexec⟩ := step_fault_cases hf
    exact exec_ne_fault_of_stepLegal (s := s.sample) hlegal f hexec
  · intro hboth
    cases hrst : s.presented.rst with
    | true => exact ⟨_, step_of_rst hrst⟩
    | false =>
      obtain ⟨i, hd⟩ :=
        decode_both_isOk s.cipher.step s.presented.cmdValid (commandWord s.presented.cmdOp s.presented.cmdBlock)
      have hdecoded : s.sample.decodeCommand s.presented = .ok i := by
        rw [State.decodeCommand, sample_variant, hboth]
        exact hd
      rw [step_of_decode hrst hdecoded]
      exact exec_decoded_next hlegal hdecoded

/-! ## What a handler sees inside a callback (R160) -/

/-- What the event of a transition from `s` to `t` records, by its kind: an accepted `START` has written, a rejected
one writes nothing, and a completion has not written yet (R100, R101, R114). -/
def Event.recordsOrder (e : Event) (s t : State) : Prop :=
  match e.kind with
  | .accepted => e.seen = t.cipher ∧ e.seen.step = 1
  | .rejected => e.seen = s.cipher ∧ e.seen.step ≠ 0
  | .finished => e.seen = s.cipher ∧ e.seen.step = 34

/-- The three rows that fire an event are the ones of an accepted and a rejected `START` and of a completion. -/
theorem exec_event_recordsOrder {i : Instr} {s t : State} {e : Event} (h : exec i s = .next t)
    (he : t.outputs.event = some e) : e.recordsOrder s t := by
  rcases exec_next_cases h with ⟨-, rfl⟩ | ⟨b, -, -, rfl⟩ | ⟨b, -, hst, rfl⟩ | ⟨-, -, rfl⟩ | ⟨-, -, rfl⟩ |
    ⟨-, -, rfl⟩ | ⟨-, -, rfl⟩ | ⟨-, hst, rfl⟩
  case inr.inl =>
    obtain ⟨-, rfl⟩ := gate_eq_some_iff.mp he
    exact ⟨rfl, rfl⟩
  case inr.inr.inl =>
    obtain ⟨-, rfl⟩ := gate_eq_some_iff.mp he
    have hbusy : s.cipher.step ≠ 0 := fun h0 => by simp [h0] at hst
    exact ⟨rfl, hbusy⟩
  case inr.inr.inr.inr.inr.inr.inr =>
    obtain ⟨-, rfl⟩ := gate_eq_some_iff.mp he
    exact ⟨rfl, BitVec.eq_of_toNat_eq hst⟩
  all_goals cases he

/-- A handler always finds the engine busy. -/
theorem Event.recordsOrder.seen_step_ne_zero {e : Event} {s t : State} (h : e.recordsOrder s t) :
    e.seen.step ≠ 0 := by
  unfold Event.recordsOrder at h
  split at h
  · rw [h.2]; decide
  · exact h.2
  · rw [h.2]; decide

/-- R101: any `START` of a busy engine decodes to the rejection of its block. -/
theorem decode_start_busy {st : StepCount} (v : Variant) (b : Block) (h : st ≠ 0) :
    decode v st true (commandWord 0b01 (portOfBlock b)) = .ok (.startRej b) := by
  rw [decode_start (opOfWord_commandWord _ _), portOfWord_commandWord, blockOfPort_portOfBlock,
    selectStart_busy b h]

/-- Settles O25: the record of each kind, and the decoding of a nested command at the step recorded. -/
theorem handlerSeesOrderOfEffects : Obligations.HandlerSeesOrderOfEffects := by
  intro i s t e h he
  have hrecord := exec_event_recordsOrder h he
  refine ⟨fun hk => ?_, fun hk => ?_, fun hk => ?_, fun v b => decode_start_busy v b hrecord.seen_step_ne_zero⟩
  · rwa [Event.recordsOrder, hk] at hrecord
  · rwa [Event.recordsOrder, hk] at hrecord
  · rw [Event.recordsOrder, hk] at hrecord
    obtain ⟨hseen, h34⟩ := hrecord
    refine ⟨hseen, h34, fun v p => ?_⟩
    rw [h34]
    exact ⟨decode_pollE (opOfWord_commandWord _ _), decode_pollD (opOfWord_commandWord _ _)⟩

end Sys2Proof.Machine
end

section
/-!
SUPPORT. The proof of the family 70_reset_and_hazards: what a reset cycle drives on the output ports (R180).
-/

namespace Sys2Proof.Machine

theorem State.Silent.rspCode {t : State} (h : t.Silent) : t.rspCode = 0b00 := by
  rw [State.rspCode, h.rsp, Response.code]

/-- Whatever the engine drove before, a reset answers NONE and fires no event. -/
theorem applyReset_silent (s : State) : s.applyReset.Silent where
  rsp := congrArg Outputs.rsp (applyReset_outputs s)
  event := congrArg Outputs.event (applyReset_outputs s)

@[simp] theorem applyReset_rkRe (s : State) : s.applyReset.rkRe = false := by
  rw [State.rkRe, applyReset_outputs, outputs_quiet_rkIndex, Option.isSome_none]

/-- Settles O10: with `rst = 1` the command is not decoded, and the reset of the sampled state is idle and silent. -/
theorem resetCycle : Obligations.ResetCycle := by
  intro s hrst
  have hsilent : s.sample.applyReset.Silent := applyReset_silent s.sample
  exact ⟨s.sample.applyReset, step_of_rst hrst, applyReset_step _, hsilent.rspCode, applyReset_rkRe _,
    hsilent.fired .accepted, hsilent.fired .rejected, hsilent.fired .finished⟩

end Sys2Proof.Machine
end
